-- ==== Sys2Proof/Word.lean ====
section
/-! DEFINITION. The word types of the refresh CORE: the 64-bit operation word (R90), the byte of the framebuffer (R32)
and the 16-bit CanonicalColor (R97). -/

namespace Sys2Proof

/-- One operation word (30_encoding.md R90). -/
abbrev OpWord := BitVec 64

/-- One byte of the framebuffer and of the serial link (10_state.md R32, 30_encoding.md R96). -/
abbrev Byte := BitVec 8

/-- A CanonicalColor (30_encoding.md R97). -/
abbrev Color := BitVec 16

/-- A 32-bit working register (10_state.md R21). -/
abbrev Reg32 := BitVec 32

end Sys2Proof
end

