-- ==== Sys2Proof/Config.lean ====
section
/-! DEFINITION. The configuration of one CORE (00_scope.md R5): the record fixed before BEGIN, and the open values of the
spec as constants without a body. What is computed from the record (R6) stands in Machine/Geometry.lean. -/

namespace Sys2Proof

/-- The configuration record of R5. `wReq` and `hReq` are the requested sizes, before they are rounded down to a multiple
of 32. -/
structure Config where
  wReq       : Nat
  hReq       : Nat
  d          : Nat
  db         : Bool
  basePeriod : Nat
  memBytes   : Nat
  debugTrap  : Bool
deriving DecidableEq, Repr

/-- `GAMMA` (R5, R225): 256 values in 0..15 of which nothing else may be assumed. UNINTERPRETED, log 10. -/
opaque Config.gamma : BitVec 8 → BitVec 4

/-- `SERIAL_BIT_TIME` (R207): a named open parameter no functional rule depends on. UNINTERPRETED, log 11. -/
opaque Config.serialBitTime : Nat

/-- What the 16-bit registers `CFG_W`, `CFG_H` (R28) read when the width or height does not fit 16 bits: the spec states
no value there. FREE VALUE, log 12. -/
opaque Config.tooWide : Nat → BitVec 16

end Sys2Proof
end

