-- ==== Sys2Proof/Machine/Geometry.lean ====
section
/-! DEFINITION. The constants derived from the configuration (00_scope.md R6), the legal configurations (R5), the address
of a byte of a slice (20_memory.md R60) and the symbolic timing relations (44_transfer_engine.md R207, 70_reset_and_hazards.md R281). -/

namespace Sys2Proof

/-- `W`: the requested width rounded down to a multiple of 32 (R5). -/
def Config.w (c : Config) : Nat := 32 * (c.wReq / 32)

/-- `H`: the requested height rounded down to a multiple of 32 (R5). -/
def Config.h (c : Config) : Nat := 32 * (c.hReq / 32)

/-- `S`: the number of stacked 32-row segments (R6). -/
def Config.segments (c : Config) : Nat := c.h / 32

/-- `C`: the column address range (R6). -/
def Config.chain (c : Config) : Nat := c.segments * c.w

/-- `row_size`: bytes per scan-row slice (R6, the spec's decision D4). -/
def Config.rowSize (c : Config) : Nat := c.chain

/-- `plane_size`: bytes per bit-plane (R6). -/
def Config.planeSize (c : Config) : Nat := c.rowSize * 16

/-- `buf_size`: bytes per buffer half (R6). -/
def Config.bufSize (c : Config) : Nat := c.d * c.planeSize

/-- How many buffer halves there are: `DB + 1` (R5, R6). -/
def Config.halves (c : Config) : Nat := if c.db then 2 else 1

/-- `mem_size`: bytes of the framebuffer (R6). -/
def Config.memSize (c : Config) : Nat := if c.db then 2 * c.bufSize else c.bufSize

/-- The legal configurations (R5). -/
def Config.legal (c : Config) : Bool :=
  decide (32 ≤ c.w) && decide (32 ≤ c.h) && decide (1 ≤ c.d) && decide (c.d ≤ 4) && decide (1 ≤ c.basePeriod) &&
    decide (c.basePeriod * 2 ^ (c.d - 1) < 2 ^ 32) && decide (c.memBytes ≤ 2 ^ 32)

/-- The storage the configuration asks for exists: otherwise BEGIN fails (40_lifecycle.md R122). -/
def Config.fits (c : Config) : Bool := decide (c.memSize ≤ c.memBytes)

/-- `addr(h, p, r, i)`: byte `i` of the slice of scan row `r` of plane `p` of half `h` (R60). -/
def Config.addr (c : Config) (h p r i : Nat) : Nat :=
  h * c.bufSize + p * c.planeSize + r * c.rowSize + i

/-- The period a tick that finds plane `p` programs: `BASE_PERIOD * 2^(D-1-p)` (43_refresh_scheduler.md R174). -/
def Config.period (c : Config) (p : Nat) : Nat := c.basePeriod <<< (c.d - 1 - p)

/-- The duration of one transfer in a model that keeps time (R207). -/
def Config.transferTime (c : Config) : Nat := 8 * c.rowSize * Config.serialBitTime

/-- The configuration duty that prevents a transfer overlap (R281). -/
def Config.PeriodExceedsTransfer (c : Config) : Prop := c.transferTime < c.basePeriod

end Sys2Proof
end

