-- ==== Sys2Proof/Syntax.lean ====
section
/-! DEFINITION. The operations of the block, one constructor per row of spec/opcode_table.json (30_encoding.md R92), the
reasons an operation word is illegal (R94), the two domains (60_exceptions.md R253) and the three colour channels. -/

namespace Sys2Proof

/-- One operation of CORE (R92): five commands and three events. Coordinates are signed integers (R91). -/
inductive Instr where
  /-- `BEGIN` -/
  | beginOp
  /-- `SETPIXEL x, y, color` -/
  | setPixel (x y : Int) (color : Color)
  /-- `FILL color` -/
  | fill (color : Color)
  /-- `REQSWAP` -/
  | reqSwap
  /-- `REQRESYNC` -/
  | reqResync
  /-- `TICK` -/
  | tick
  /-- `XFERBYTE` -/
  | xferByte
  /-- `XFERDONE` -/
  | xferDone
deriving DecidableEq, Repr

/-- Why a 64-bit word is no operation (R94). -/
inductive DecodeError where
  /-- `OP` is one of 0x0, 0x6, 0x7, 0xB to 0xF. -/
  | unassignedOp
  /-- `RSV` is not 0x000. -/
  | reservedNotZero
  /-- A field that R92 marks `-` is not zero. -/
  | unusedFieldNotZero
  /-- An event code (0x8, 0x9, 0xA) presented on the command port. -/
  | eventOnPort
deriving DecidableEq, Repr

/-- The two concurrency domains (R253): who takes the step. -/
inductive Domain where
  | application
  | interrupt
deriving DecidableEq, Repr

/-- A colour channel of one pixel (41_address_mapper.md R130). -/
inductive Channel where
  | red
  | green
  | blue
deriving DecidableEq, Repr

end Sys2Proof
end

