-- ==== Sys2Proof/Machine/AddressMapper.lean ====
section
/-! DEFINITION. The address mapper (41_address_mapper.md R130 to R136): a pure function of the configuration. -/

namespace Sys2Proof.Machine

/-- The place of a pixel inside a plane: `off`, the byte offset, and `grp`, which of the byte's two bit triples (R130). -/
structure Place where
  off : Nat
  grp : Nat
deriving DecidableEq, Repr

/-- The pixel is on the panel (R131). -/
abbrev InRange (c : Config) (x y : Int) : Prop := 0 ≤ x ∧ x < c.w ∧ 0 ≤ y ∧ y < c.h

/-- `seg = y >> 5` (R132). -/
def segmentOf (y : Nat) : Nat := y >>> 5

/-- `lr`: the local row, mirrored in an odd segment (R133, R134). -/
def localRow (y : Nat) : Nat := if segmentOf y % 2 = 0 then y % 32 else 31 - y % 32

/-- `col`: the chain column, mirrored inside an odd segment (R133, R134). -/
def chainColumn (c : Config) (x y : Nat) : Nat :=
  if segmentOf y % 2 = 0 then x % c.w + segmentOf y * c.w else (c.w - 1 - x % c.w) + segmentOf y * c.w

/-- `r = lr mod 16`: which of the plane's 16 slices (R135, decision D7). -/
def scanRow (lr : Nat) : Nat := lr % 16

/-- `u = lr >> 4`: the sub-row (R135). -/
def subRow (lr : Nat) : Nat := lr >>> 4

/-- `i`: the byte inside the slice (R136, decision D6). -/
def sliceByte (c : Config) (u col : Nat) : Nat := u * (c.chain / 2) + (col >>> 1)

/-- The place of local row `lr` and chain column `col` (R136). -/
def placeOf (c : Config) (lr col : Nat) : Place where
  off := scanRow lr * c.rowSize + sliceByte c (subRow lr) col
  grp := col % 2

/-- `map(x, y)` (R130, R131). -/
def mapPixel (c : Config) (x y : Int) : Option Place :=
  if InRange c x y then some (placeOf c (localRow y.toNat) (chainColumn c x.toNat y.toNat)) else none

/-- `bitpos(grp, ch)` (R136, decision D5). -/
def bitPos (grp : Nat) : Channel → Nat
  | .red => if grp = 0 then 7 else 4
  | .green => if grp = 0 then 6 else 3
  | .blue => if grp = 0 then 5 else 2

/-- `slot(x, y, p, ch)`: byte offset inside one buffer half, and bit number (R130). -/
def slot (c : Config) (x y : Int) (p : Nat) (ch : Channel) : Option (Nat × Nat) :=
  match mapPixel c x y with
  | none => none
  | some m => some (p * c.planeSize + m.off, bitPos m.grp ch)

end Sys2Proof.Machine
end

