-- ==== Sys2Proof/Machine/State.lean ====
section
/-! DEFINITION. The state of CORE (10_state.md), the reasons a step stops, and the state at power-on (R45). -/

namespace Sys2Proof.Machine

/-- The framebuffer `FB` (R32): the bytes that differ from what an unlisted address reads as, addresses rising. -/
abbrev Memory := List Host.Cell

/-- One output event (10_state.md R44). -/
inductive OutEvent where
  | blankOn
  | blankOff
  | clearPulse
  | setPeriod (p : Reg32)
  | xferStart (a n : Nat)
  | xferDropped (a n : Nat)
  | serialByte (b : Byte)
  | xferDone
deriving DecidableEq, Repr

/-- What is left of a command's access sequence (42_framebuffer_ops.md R151, R154). -/
inductive Access where
  /-- `MemWrite(a, 1, v)`: one access. -/
  | store (a : Nat) (v : Byte)
  /-- `v <- MemRead(a, 1)` and then `MemWrite(a, 1, (v & keep) | bits)`: two accesses. -/
  | modify (a : Nat) (keep bits : Byte)
deriving DecidableEq, Repr

/-- One move of a run, the model's own input (log 1, log 2): whose step comes next. -/
inductive Move where
  /-- A line of a recorded run, a command or an event (R9, R90). If it is a command, the application makes at most `upTo`
  byte accesses before the next move (none: all of them). -/
  | line (w : OpWord) (upTo : Option Nat)
  /-- A word presented on the command port, where event codes are illegal (R94, R254). -/
  | port (w : OpWord) (upTo : Option Nat)
  /-- The command in progress goes on with its next accesses (R8). -/
  | resume (upTo : Option Nat)
  /-- One time unit of the tick timer passes (R252). -/
  | timeUnit
deriving DecidableEq, Repr

/-- Everything CORE remembers (10_state.md R20), and the model's own inputs `sched` and `budget`. -/
structure State where
  /-- The configuration (R5); the hard-wired `CFG_*` registers are views of it (R28). -/
  cfg          : Config
  /-- `ROW` (R21). -/
  row          : BitVec 4
  /-- `PLANE` (R21). -/
  plane        : BitVec 2
  /-- `TICK_PERIOD` (R21). -/
  tickPeriod   : Reg32
  /-- `XFER_BASE` (R21). -/
  xferBase     : Reg32
  /-- `XFER_LEN` (R21). -/
  xferLen      : Reg32
  /-- `XFER_IDX` (R21). -/
  xferIdx      : Reg32
  /-- `SWAP_REQ` (R25). -/
  swapReq      : Bool
  /-- `RESYNC_REQ` (R25). -/
  resyncReq    : Bool
  /-- `XFER_BUSY` (R25). -/
  xferBusy     : Bool
  /-- `BLANK` (R25). -/
  blank        : Bool
  /-- `STARTED` (R25). -/
  started      : Bool
  /-- `FRONT_SEL` (R27): true is 1. -/
  frontSel     : Bool
  /-- `INIT_STATUS` (R30). -/
  initStatus   : Byte
  /-- `FAULT` (R28, R29): bit 0 is `XFER_OVERLAP`. -/
  faultReg     : Byte
  /-- `TIMER_CNT` (R34, R252). -/
  timerCnt     : Reg32
  /-- The tick timer is running (R45, R252). -/
  timerRunning : Bool
  /-- `FB` (R32). -/
  fb           : Memory
  /-- The output trace, oldest event first (R44). -/
  trace        : List OutEvent
  /-- The accesses the command in progress has still to make (R8); empty when no command is in progress. -/
  todo         : List Access
  /-- The model's own input: the moves still to come (log 1). -/
  sched        : List Move
  /-- The model's own input: how many byte accesses a command makes before the next move, none for all (log 2). -/
  budget       : Option Nat
deriving DecidableEq, Repr

/-- Why the machine stops. All three are safe: the model has no step where the spec has none. -/
inductive Fault where
  /-- Raised by TICK, XFERBYTE and XFERDONE after a transfer overlap in a debug build: "no further TICK, XFERBYTE,
  XFERDONE step exists" (44_transfer_engine.md R202). Safe. -/
  | debugTrapHalt
  /-- Raised by a byte access at an address that is not below `mem_size`; unreachable (20_memory.md R61). Safe. -/
  | outsideFramebuffer
  /-- Raised by TICK when `PLANE >= D`, where R24 gives no successor; unreachable (10_state.md R22). Safe. -/
  | planeBeyondDepth
deriving DecidableEq, Repr

/-- Why the model gives a step no meaning. All are safe: the spec refuses them or has no such step. -/
inductive Refusal where
  /-- Raised by exec's arm of an instruction that has no meaning yet. Safe. -/
  | notModelled (mnemonic : String)
  /-- Raised by the step on a word R94 calls illegal. Safe. -/
  | illegalWord (e : DecodeError)
  /-- Raised by every operation under a configuration R5 refuses. Safe. -/
  | illegalConfig
  /-- Raised by BEGIN when `INIT_STATUS` is not 0x00 (40_lifecycle.md R123). Safe. -/
  | alreadyBegun
  /-- Raised by every operation but BEGIN when `STARTED = 0` (40_lifecycle.md R124; for XFERBYTE and XFERDONE, which cannot
  occur there, log 13). Safe. -/
  | notStarted
  /-- Raised by a command while another is in progress (70_reset_and_hazards.md R287). Safe. -/
  | commandInProgress
  /-- Raised by XFERBYTE and XFERDONE where "the event cannot occur" (44_transfer_engine.md R204, R205; log 13). Safe. -/
  | eventNotEnabled
  /-- Raised by a `resume` move when no command is in progress: there is no such step (R8). Safe. -/
  | noCommandInProgress
  /-- Raised by the step when no move is listed: the run has ended (43_refresh_scheduler.md R180). Safe. -/
  | runEnded
deriving DecidableEq, Repr

/-- The power-on state of a block with configuration `c` (R45, R270). -/
def State.powerOn (c : Config) : State where
  cfg := c
  row := 0
  plane := 0
  tickPeriod := 0
  xferBase := 0
  xferLen := 0
  xferIdx := 0
  swapReq := false
  resyncReq := false
  xferBusy := false
  blank := true
  started := false
  frontSel := false
  initStatus := 0x00
  faultReg := 0x00
  timerCnt := 0
  timerRunning := false
  fb := []
  trace := []
  todo := []
  sched := []
  budget := none

/-- DESIGN CHOICE (log 4): the configuration of the reset state, that of program P2 of 95_test_vectors.md. The spec fixes
no configuration; statements are about every one. -/
def resetConfig : Config where
  wReq := 32
  hReq := 32
  d := 2
  db := true
  basePeriod := 100
  memBytes := 2 ^ 32
  debugTrap := false

/-- The machine right after reset: power-on (R270). -/
def State.reset : State := State.powerOn resetConfig

end Sys2Proof.Machine
end

