-- ==== Sys2Proof/Machine/Ops.lean ====
section
/-! DEFINITION. The shared operations over memory, the output trace, error conditions, preconditions and access
sequences (00_scope.md R8, R12; 20_memory.md; 60_exceptions.md R240, R241). -/

namespace Sys2Proof.Machine

/-- What a step answers. -/
abbrev Result := Host.Outcome State Fault Refusal

/-- What an unlisted address reads as. DESIGN CHOICE (log 3): the spec leaves `FB` at power-on unspecified (R32). -/
def unlistedByte : Byte := 0x00

/-- `FB[a]` (R12). -/
def Memory.read : Memory → Nat → Byte
  | [], _ => unlistedByte
  | (b, v) :: rest, a => if a < b then unlistedByte else if a = b then v else Memory.read rest a

/-- `FB[a] <- v` (R12), keeping the canonical form. -/
def Memory.write : Memory → Nat → Byte → Memory
  | [], a, v => if v = unlistedByte then [] else [(a, v)]
  | (b, u) :: rest, a, v =>
    if a < b then (if v = unlistedByte then (b, u) :: rest else (a, v) :: (b, u) :: rest)
    else if a = b then (if v = unlistedByte then rest else (a, v) :: rest)
    else (b, u) :: Memory.write rest a v

/-- The canonical form: addresses strictly rising, no entry equal to what an unlisted address reads as. -/
abbrev Memory.wf (m : Memory) : Prop :=
  m.Pairwise (fun c e => c.1 < e.1) ∧ ∀ c ∈ m, c.2 ≠ unlistedByte

/-- The same byte stored at `n` consecutive addresses from `a` on, in ascending order. -/
def Memory.fillRange (m : Memory) (a : Nat) : Nat → Byte → Memory
  | 0, _ => m
  | n + 1, v => Memory.fillRange (m.write a v) (a + 1) n v

/-- `emit E` (R12, R44): appends to the output trace. -/
def State.emit (s : State) (e : OutEvent) : State := { s with trace := s.trace ++ [e] }

/-- The half that `FRONT_SEL` selects (R27). -/
def State.frontHalf (s : State) : Nat := s.frontSel.toNat

/-- The half the application draws into: `1 - FRONT_SEL` in double-buffer mode, half 0 in single-buffer mode (R27). -/
def State.backHalf (s : State) : Nat := if s.cfg.db then 1 - s.frontSel.toNat else 0

/-- `front_base` (R27). -/
def State.frontBase (s : State) : Nat := s.frontHalf * s.cfg.bufSize

/-- `back_base` (R27). -/
def State.backBase (s : State) : Nat := s.backHalf * s.cfg.bufSize

/-- The error conditions of R240. -/
inductive ErrorCondition where
  | allocFail
  | outOfRange
  | xferOverlap (a n : Nat)
  | syncLoss
deriving DecidableEq, Repr

/-- The code of a condition: E1 to E4 (R240). -/
def ErrorCondition.code : ErrorCondition → Nat
  | .allocFail => 1
  | .outOfRange => 2
  | .xferOverlap _ _ => 3
  | .syncLoss => 4

/-- A condition met (R240, R241): its "recorded" column is written and the operation goes on; nothing is saved and no
control is transferred. The halt of a debug build is a function of what is recorded (R29, `State.halted`). -/
def State.raise (s : State) : ErrorCondition → State
  | .allocFail => { s with initStatus := 0xFF }
  | .outOfRange => s
  | .xferOverlap a n => ({ s with faultReg := s.faultReg ||| 0x01 }).emit (.xferDropped a n)
  | .syncLoss => s

/-- The block is halted: an overlap was recorded in a debug build (R29, R202). -/
def State.halted (s : State) : Bool := s.cfg.debugTrap && s.faultReg.getLsbD 0

/-- What every operation but BEGIN requires: a legal configuration (R5) and `STARTED = 1` (R124). -/
def whenStarted (s : State) (k : State → Result) : Result :=
  if s.cfg.legal = false then .refused .illegalConfig
  else if s.started = false then .refused .notStarted
  else k s

/-- What SETPIXEL, FILL, REQSWAP and REQRESYNC require: no command in progress (R287), and `whenStarted`. -/
def whenCommand (s : State) (k : State → Result) : Result :=
  whenStarted s fun s => if s.todo ≠ [] then .refused .commandInProgress else k s

/-- What TICK, XFERBYTE and XFERDONE require: not halted (R202), and `whenStarted`. -/
def whenEvent (s : State) (k : State → Result) : Result :=
  whenStarted s fun s => if s.halted then .fault .debugTrapHalt else k s

/-- How many byte accesses are left in a sequence (R151, R154). -/
def accessCount : List Access → Nat
  | [] => 0
  | .store _ _ :: rest => accessCount rest + 1
  | .modify _ _ _ :: rest => accessCount rest + 2

/-- The next `n` byte accesses of a sequence on a framebuffer of `size` bytes (R67, R68): what is left of the sequence, and
the framebuffer. The read and the write of a read-modify-write are two accesses; after the first one, what is left is the
store of the value computed from the byte that was read. -/
def runAccesses (size : Nat) : Nat → List Access → Memory → Except Fault (List Access × Memory)
  | 0, todo, m => .ok (todo, m)
  | _ + 1, [], m => .ok ([], m)
  | n + 1, .store a v :: rest, m =>
    if a < size then runAccesses size n rest (m.write a v) else .error .outsideFramebuffer
  | n + 1, .modify a keep bits :: rest, m =>
    if a < size then runAccesses size n (.store a ((m.read a &&& keep) ||| bits) :: rest) m
    else .error .outsideFramebuffer

/-- The application goes on with the sequence `todo`: all of it if no event falls within it (`budget = none`), else as
many accesses as come before the next move (R8). -/
def goOn (s : State) (todo : List Access) : Result :=
  match runAccesses s.cfg.memSize (s.budget.getD (accessCount todo)) todo s.fb with
  | .ok (rest, m) => .next { s with todo := rest, fb := m }
  | .error f => .fault f

/-- The command in progress resumes at its next access (R251). -/
def resumeCommand (s : State) : Result :=
  if s.todo = [] then .refused .noCommandInProgress else goOn s s.todo

end Sys2Proof.Machine
end

