-- ==== Sys2Proof/Machine/Flags.lean ====
section
/-! DEFINITION. The one-bit flags (10_state.md R25, R26) and their setting and clearing, each in one place. -/

namespace Sys2Proof.Machine

/-- REQSWAP's write: `SWAP_REQ <- 1` in double-buffer mode only (42_framebuffer_ops.md R157). -/
def State.requestSwap (s : State) : State := if s.cfg.db then { s with swapReq := true } else s

/-- REQRESYNC's write: `RESYNC_REQ <- 1` (42_framebuffer_ops.md R158). -/
def State.requestResync (s : State) : State := { s with resyncReq := true }

/-- `BLANK <- 1` and its event: TICK step 1 (43_refresh_scheduler.md R170). -/
def State.blankPanel (s : State) : State := ({ s with blank := true }).emit .blankOn

/-- `BLANK <- 0` and its event: TICK step 6 (43_refresh_scheduler.md R170). -/
def State.unblankPanel (s : State) : State := ({ s with blank := false }).emit .blankOff

/-- A boundary action consumes RESYNC_REQ: one clear pulse and the flag is cleared (43_refresh_scheduler.md R173). -/
def State.consumeResync (s : State) : State := { s.emit .clearPulse with resyncReq := false }

/-- A boundary action consumes SWAP_REQ: front and back exchange identities and the flag is cleared (R173). -/
def State.consumeSwap (s : State) : State := { s with frontSel := !s.frontSel, swapReq := false }

/-- Completion clears XFER_BUSY (44_transfer_engine.md R205). -/
def State.completeTransfer (s : State) : State := ({ s with xferBusy := false }).emit .xferDone

end Sys2Proof.Machine
end

