-- ==== Sys2Proof/Machine/Operands.lean ====
section
/-! DEFINITION. The colour operand (30_encoding.md R97, R98): the channel values CORE reads from a CanonicalColor, the bit
of a channel a plane holds, and the bytes made of them. -/

namespace Sys2Proof.Machine

/-- The 4 bits of a channel that CORE uses: `r4 = c[15:12]`, `g4 = c[10:7]`, `b4 = c[4:1]` (R97). -/
def channelValue (color : Color) : Channel → BitVec 4
  | .red => color.extractLsb' 12 4
  | .green => color.extractLsb' 7 4
  | .blue => color.extractLsb' 1 4

/-- `bitval(v4, p) = v4[3 - p]`: plane 0 holds the most significant bit (R97). -/
def bitval (v4 : BitVec 4) (p : Nat) : Bool := v4.getLsbD (3 - p)

/-- `t(p)`: the red, green and blue bit of plane `p`, red in the high bit (R98). -/
def triple (color : Color) (p : Nat) : BitVec 3 :=
  BitVec.ofBool (bitval (channelValue color .red) p) ++ BitVec.ofBool (bitval (channelValue color .green) p) ++
    BitVec.ofBool (bitval (channelValue color .blue) p)

/-- `fillbyte(p) = {t(p), t(p), 0b00}` (R98). -/
def fillByte (color : Color) (p : Nat) : Byte := triple color p ++ triple color p ++ (0#2)

/-- `ROWADV` and `LATCH`, bits 1 and 0 of a byte (R96). -/
def controlMask : Byte := 0x03

end Sys2Proof.Machine
end

