-- ==== Sys2Proof/Machine/FramebufferOps.lean ====
section
/-! DEFINITION. SETPIXEL, FILL, REQSWAP and REQRESYNC (42_framebuffer_ops.md R150 to R159). -/

namespace Sys2Proof.Machine

/-- `sh`: the lowest bit of the triple the pixel owns (R150). -/
def tripleShift (grp : Nat) : Nat := if grp = 0 then 5 else 2

/-- The bits of a byte that SETPIXEL keeps: `~(0b111 << sh)` (R150). -/
def keepMask (grp : Nat) : Byte := ~~~((0x07 : Byte) <<< tripleShift grp)

/-- The bits SETPIXEL writes in plane `p`: `t << sh` (R150). -/
def pixelBits (color : Color) (grp p : Nat) : Byte := (triple color p).setWidth 8 <<< tripleShift grp

/-- The access sequence of an in-range SETPIXEL: plane by plane, read and write (R150, R151). -/
def setPixelAccesses (c : Config) (base : Nat) (m : Place) (color : Color) : List Access :=
  (List.range c.d).map fun p =>
    .modify (base + p * c.planeSize + m.off) (keepMask m.grp) (pixelBits color m.grp p)

/-- SETPIXEL (R150): out of range it does nothing at all (R243). `back_base` is sampled once, here. -/
def execSetPixel (x y : Int) (color : Color) (s : State) : Result :=
  whenCommand s fun s =>
    match mapPixel s.cfg x y with
    | none => .next (s.raise .outOfRange)
    | some m => goOn s (setPixelAccesses s.cfg s.backBase m color)

/-- FILL's phase 1: every byte of plane after plane, ascending (R153, R154). -/
def fillBulk (c : Config) (base : Nat) (color : Color) : List Access :=
  (List.range c.d).flatMap fun p =>
    (List.range c.planeSize).map fun j => .store (base + p * c.planeSize + j) (fillByte color p)

/-- FILL's phase 2: the control bits of every slice's last byte are set again (R153, R154). -/
def fillStamps (c : Config) (base : Nat) : List Access :=
  (List.range c.d).flatMap fun p =>
    (List.range 16).map fun r =>
      .modify (base + p * c.planeSize + r * c.rowSize + (c.rowSize - 1)) 0xFF controlMask

/-- The access sequence of FILL: all of phase 1, then all of phase 2 (R154). -/
def fillAccesses (c : Config) (base : Nat) (color : Color) : List Access :=
  fillBulk c base color ++ fillStamps c base

/-- FILL (R153). `back_base` is sampled once, here. -/
def execFill (color : Color) (s : State) : Result :=
  whenCommand s fun s => goOn s (fillAccesses s.cfg s.backBase color)

/-- REQSWAP (R157). -/
def execReqSwap (s : State) : Result := whenCommand s fun s => .next s.requestSwap

/-- REQRESYNC (R158). -/
def execReqResync (s : State) : Result := whenCommand s fun s => .next s.requestResync

end Sys2Proof.Machine
end

