-- ==== Sys2Proof/Machine/Lifecycle.lean ====
section
/-! DEFINITION. BEGIN (40_lifecycle.md R120 to R123). -/

namespace Sys2Proof.Machine

/-- The addresses of the last byte of every slice, halves, planes and scan rows ascending (R120). -/
def lastBytes (c : Config) : List Nat :=
  (List.range c.halves).flatMap fun h => (List.range c.d).flatMap fun p =>
    (List.range 16).map fun r => c.addr h p r (c.rowSize - 1)

/-- The two loops of R120: every byte 0x00, then 0x03 in the last byte of every slice. -/
def clearedFramebuffer (c : Config) (m : Memory) : Memory :=
  (lastBytes c).foldl (fun m a => m.write a controlMask) (m.fillRange 0 c.memSize 0x00)

/-- What a successful BEGIN installs (R120, R121). -/
def installStart (s : State) : State :=
  { s.emit .clearPulse with
    fb := clearedFramebuffer s.cfg s.fb
    row := 15
    plane := BitVec.ofNat 2 (s.cfg.d - 1)
    frontSel := false
    swapReq := false
    resyncReq := false
    xferBusy := false
    xferBase := 0
    xferLen := 0
    xferIdx := 0
    faultReg := 0x00
    blank := true
    tickPeriod := BitVec.ofNat 32 s.cfg.basePeriod
    timerCnt := BitVec.ofNat 32 s.cfg.basePeriod
    timerRunning := true
    started := true
    initStatus := 0x01 }

/-- BEGIN (R120). It is refused when it has run before (R123), and fails without storage (R122). -/
def execBegin (s : State) : Result :=
  if s.cfg.legal = false then .refused .illegalConfig
  else if s.todo ≠ [] then .refused .commandInProgress
  else if s.initStatus ≠ 0x00 then .refused .alreadyBegun
  else if s.cfg.fits then .next (installStart s)
  else .next (s.raise .allocFail)

end Sys2Proof.Machine
end

