-- ==== Sys2Proof/Machine/TransferEngine.lean ====
section
/-! DEFINITION. The serial-transfer arbiter and engine: BeginTransfer, XFERBYTE, XFERDONE (44_transfer_engine.md). -/

namespace Sys2Proof.Machine

/-- BeginTransfer(a, n), a sub-step of TICK (R201): accepted when no transfer is in flight, else an overlap (R202). -/
def State.beginTransfer (s : State) (a n : Nat) : State :=
  if s.xferBusy then s.raise (.xferOverlap a n)
  else
    ({ s with
        xferBase := BitVec.ofNat 32 a
        xferLen := BitVec.ofNat 32 n
        xferIdx := 0
        xferBusy := true }).emit (.xferStart a n)

/-- The address of the next byte to send: `XFER_BASE + XFER_IDX` (R204). -/
def State.sendAddr (s : State) : Nat := s.xferBase.toNat + s.xferIdx.toNat

/-- XFERBYTE (R204): the byte is fetched now and sent. -/
def execXferByte (s : State) : Result :=
  whenEvent s fun s =>
    if s.xferBusy && decide (s.xferIdx.toNat < s.xferLen.toNat) then
      if s.sendAddr < s.cfg.memSize then
        .next { s.emit (.serialByte (s.fb.read s.sendAddr)) with xferIdx := s.xferIdx + 1 }
      else .fault .outsideFramebuffer
    else .refused .eventNotEnabled

/-- XFERDONE (R205). -/
def execXferDone (s : State) : Result :=
  whenEvent s fun s =>
    if s.xferBusy && decide (s.xferIdx = s.xferLen) then .next s.completeTransfer
    else .refused .eventNotEnabled

end Sys2Proof.Machine
end

