-- ==== Sys2Proof/Machine/Scheduler.lean ====
section
/-! DEFINITION. TICK (43_refresh_scheduler.md R170 to R176) and the tick timer that causes it (60_exceptions.md R252). -/

namespace Sys2Proof.Machine

/-- The scan position is `(15, D-1)` (R172). -/
def State.atBoundary (s : State) : Bool := s.row == 15 && s.plane.toNat == s.cfg.d - 1

/-- Step 2: at the boundary at most one pending action, resync first (R173). -/
def State.boundaryAction (s : State) : State :=
  if s.atBoundary then
    if s.resyncReq then s.consumeResync
    else if s.swapReq && s.cfg.db then s.consumeSwap
    else s
  else s

/-- Step 3: the next period, from the plane before the advance (R174). -/
def State.programPeriod (s : State) : State :=
  let p := BitVec.ofNat 32 (s.cfg.period s.plane.toNat)
  ({ s with tickPeriod := p }).emit (.setPeriod p)

/-- Step 4: the scan position advances to its successor (R175, 10_state.md R24). -/
def State.advance (s : State) : State :=
  if s.row = 15 then
    { s with row := 0, plane := if s.plane.toNat = s.cfg.d - 1 then 0 else s.plane + 1 }
  else { s with row := s.row + 1 }

/-- The address of the slice at the scan position, in the front half (R176). -/
def State.sliceAddr (s : State) : Nat :=
  s.frontBase + s.plane.toNat * s.cfg.planeSize + s.row.toNat * s.cfg.rowSize

/-- Step 5: the transfer of the new position's slice from the front half is requested (R176). -/
def State.requestSlice (s : State) : State := s.beginTransfer s.sliceAddr s.cfg.rowSize

/-- The tick timer is loaded with the period the tick just wrote (R34, R252). -/
def State.reloadTimer (s : State) : State := { s with timerCnt := s.tickPeriod }

/-- The six steps of TICK as one (R170, R10). -/
def State.tick (s : State) : State :=
  s.blankPanel.boundaryAction.programPeriod.advance.requestSlice.unblankPanel.reloadTimer

/-- The pure function of R10: the new state, the next period and the transfer requested, as (address, length). -/
def State.tickFunction (s : State) : State × Reg32 × (Nat × Nat) :=
  (s.tick, s.tick.tickPeriod, (s.boundaryAction.advance.sliceAddr, s.cfg.rowSize))

/-- TICK (R170). -/
def execTick (s : State) : Result :=
  whenEvent s fun s =>
    if s.plane.toNat < s.cfg.d then .next s.tick else .fault .planeBeyondDepth

/-- One time unit passes (R252): a running timer counts down, and when it reaches 0 the TICK happens. DESIGN CHOICE (log 15): time
passes for a block whose configuration R5 refuses as well, idle while its timer is stopped. -/
def passTime (s : State) : Result :=
  if s.timerRunning then
    if s.timerCnt.toNat ≤ 1 then execTick { s with timerCnt := 0 }
    else .next { s with timerCnt := s.timerCnt - 1 }
  else .next s

end Sys2Proof.Machine
end

