-- ==== Sys2Proof/Machine/Dispatch.lean ====
section
/-! DEFINITION. Dispatch: one arm per operation. -/

namespace Sys2Proof.Machine

def exec (i : Instr) (s : State) : Host.Outcome State Fault Refusal :=
  match i with
  | .beginOp => Sys2Proof.Machine.execBegin s
  | .setPixel x y color => Sys2Proof.Machine.execSetPixel x y color s
  | .fill color => Sys2Proof.Machine.execFill color s
  | .reqSwap => Sys2Proof.Machine.execReqSwap s
  | .reqResync => Sys2Proof.Machine.execReqResync s
  | .tick => Sys2Proof.Machine.execTick s
  | .xferByte => Sys2Proof.Machine.execXferByte s
  | .xferDone => Sys2Proof.Machine.execXferDone s

end Sys2Proof.Machine
end

