-- ==== Sys2Proof/WellFormed.lean ====
section
/-! DEFINITION. When an operation can be written as an operation word: its coordinates are signed 16-bit integers
(30_encoding.md R91). Every other operand is a bit vector of its exact width. -/

namespace Sys2Proof

/-- A coordinate that the 16-bit fields X and Y can hold: -32768 .. 32767 (R91). -/
abbrev CoordOk (v : Int) : Prop := -32768 ≤ v ∧ v ≤ 32767

/-- A well-formed operation: one that has an operation word (R90, R91). -/
def Instr.wf : Instr → Bool
  | .beginOp => true
  | .setPixel x y _ => decide (CoordOk x) && decide (CoordOk y)
  | .fill _ => true
  | .reqSwap => true
  | .reqResync => true
  | .tick => true
  | .xferByte => true
  | .xferDone => true

end Sys2Proof
end

