-- ==== Sys2Proof/Decode.lean ====
section
/-! DEFINITION. Decoding an operation word (30_encoding.md R90 to R95), the decoder of the command port (R94), and the
encoder. -/

namespace Sys2Proof

/-- `OP`, bits 63:60 (R90). -/
def opField (w : OpWord) : BitVec 4 := w.extractLsb' 60 4

/-- `RSV`, bits 59:48 (R90). -/
def rsvField (w : OpWord) : BitVec 12 := w.extractLsb' 48 12

/-- `X`, bits 47:32 (R90). -/
def xField (w : OpWord) : BitVec 16 := w.extractLsb' 32 16

/-- `Y`, bits 31:16 (R90). -/
def yField (w : OpWord) : BitVec 16 := w.extractLsb' 16 16

/-- `COLOR`, bits 15:0 (R90). -/
def colorField (w : OpWord) : Color := w.extractLsb' 0 16

/-- The word with the given fields (R90). -/
def packWord (op : BitVec 4) (rsv : BitVec 12) (x y : BitVec 16) (color : Color) : OpWord :=
  op ++ rsv ++ x ++ y ++ color

/-- An operation whose X, Y and COLOR are all marked `-` (R92, R94). -/
def decodeNoOperand (w : OpWord) (i : Instr) : Except DecodeError Instr :=
  if xField w = 0 ∧ yField w = 0 ∧ colorField w = 0 then .ok i else .error .unusedFieldNotZero

/-- `FILL`: X and Y are marked `-`, COLOR is the operand (R92, R94). -/
def decodeFill (w : OpWord) : Except DecodeError Instr :=
  if xField w = 0 ∧ yField w = 0 then .ok (.fill (colorField w)) else .error .unusedFieldNotZero

/-- `SETPIXEL`: X and Y are read as two's complement, COLOR as it is (R91). -/
def decodeSetPixel (w : OpWord) : Instr :=
  .setPixel (xField w).toInt (yField w).toInt (colorField w)

/-- The decoder, total on every 64-bit word (R92, R94). It reads any line of a recorded run, event words included (R90).
DESIGN CHOICE (log 16): of a word illegal in several ways it reports RSV first, then OP, then an unused field. -/
def decode (w : OpWord) : Except DecodeError Instr :=
  if rsvField w ≠ 0 then .error .reservedNotZero
  else if opField w = 0x1 then decodeNoOperand w .beginOp
  else if opField w = 0x2 then .ok (decodeSetPixel w)
  else if opField w = 0x3 then decodeFill w
  else if opField w = 0x4 then decodeNoOperand w .reqSwap
  else if opField w = 0x5 then decodeNoOperand w .reqResync
  else if opField w = 0x8 then decodeNoOperand w .tick
  else if opField w = 0x9 then decodeNoOperand w .xferByte
  else if opField w = 0xA then decodeNoOperand w .xferDone
  else .error .unassignedOp

/-- Which domain an operation belongs to (R92 "kind", R253). -/
def Instr.domain : Instr → Domain
  | .beginOp => .application
  | .setPixel _ _ _ => .application
  | .fill _ => .application
  | .reqSwap => .application
  | .reqResync => .application
  | .tick => .interrupt
  | .xferByte => .interrupt
  | .xferDone => .interrupt

/-- The decoder of the command port: the event codes are illegal there (R94). DESIGN CHOICE (log 16): an event word that is
illegal anywhere is reported for that reason. -/
def decodePort (w : OpWord) : Except DecodeError Instr :=
  match decode w with
  | .error e => .error e
  | .ok i => if i.domain = .application then .ok i else .error .eventOnPort

/-- The word of an operation (R90 to R92). -/
def encode : Instr → OpWord
  | .beginOp => packWord 0x1 0 0 0 0
  | .setPixel x y color => packWord 0x2 0 (BitVec.ofInt 16 x) (BitVec.ofInt 16 y) color
  | .fill color => packWord 0x3 0 0 0 color
  | .reqSwap => packWord 0x4 0 0 0 0
  | .reqResync => packWord 0x5 0 0 0 0
  | .tick => packWord 0x8 0 0 0 0
  | .xferByte => packWord 0x9 0 0 0 0
  | .xferDone => packWord 0xA 0 0 0 0

/-- What the decoder reads from the instruction whose bits are `w`, the bits above `nbits` being zero. Every operation is
one 64-bit word (R95), so a row of more than 64 bits has none. -/
def decodeTableWord (nbits w : Nat) : Option Instr :=
  if nbits ≤ 64 then (decode (BitVec.ofNat 64 (w % 2 ^ nbits))).toOption else none

end Sys2Proof
end

