-- ==== Sys2Proof/Machine/Fetch.lean ====
section
/-! DEFINITION. How the next move of a run is taken, and how an operation word is read (log 1). -/

namespace Sys2Proof.Machine

/-- How many accesses a move gives the application before the next one. -/
def Move.upTo : Move → Option Nat
  | .line _ n => n
  | .port _ n => n
  | .resume n => n
  | .timeUnit => none

/-- The next move, and the state with it taken off the list. None when the run has ended (R180). -/
def takeMove (s : State) : Option (Move × State) :=
  match s.sched with
  | [] => none
  | m :: rest => some (m, { s with sched := rest, budget := m.upTo })

/-- A word that no decoder accepts is refused: no state changes and nothing is emitted (R94). DESIGN
CHOICE (log 16): an illegal word is reported as one whatever the state, before what the operation itself checks. -/
def whenLegalWord (d : Except DecodeError Instr) (k : Instr → Result) : Result :=
  match d with
  | .error e => .refused (.illegalWord e)
  | .ok i => k i

/-- The word of a table row as the first line of the run. -/
def lineOf (nbits w : Nat) : Move := .line (BitVec.ofNat 64 (w % 2 ^ nbits)) none

end Sys2Proof.Machine
end

