-- ==== Sys2Proof/Machine/Ports.lean ====
section
/-! DEFINITION. What the outside sees (60_exceptions.md R254): the hard-wired configuration registers (10_state.md R28), the
status port, the serial bit stream (20_memory.md R66) and the blank pin. Reading any of them changes nothing. -/

namespace Sys2Proof.Machine

/-- A geometry value in a 16-bit register; a value that does not fit reads as a free value (R28, log 12). -/
def geometryReg (v : Nat) : BitVec 16 := if v < 2 ^ 16 then BitVec.ofNat 16 v else Config.tooWide v

/-- `CFG_W` (R28). -/
def State.cfgW (s : State) : BitVec 16 := geometryReg s.cfg.w

/-- `CFG_H` (R28). -/
def State.cfgH (s : State) : BitVec 16 := geometryReg s.cfg.h

/-- `CFG_D` (R28). -/
def State.cfgD (s : State) : BitVec 3 := BitVec.ofNat 3 s.cfg.d

/-- `CFG_DB` (R28). -/
def State.cfgDB (s : State) : Bool := s.cfg.db

/-- `CFG_BASE` (R28): read by the interrupt domain only. -/
def State.cfgBase (s : State) : Reg32 := BitVec.ofNat 32 s.cfg.basePeriod

/-- What the application reads on the status port (R28, R254). -/
structure Status where
  initStatus : Byte
  cfgW       : BitVec 16
  cfgH       : BitVec 16
  cfgD       : BitVec 3
  cfgDB      : Bool
  swapReq    : Bool
  resyncReq  : Bool
  started    : Bool
  fault      : Byte
deriving DecidableEq, Repr

/-- The `FAULT` register as it reads: bits 7:1 read as 0 (R28). -/
def State.readFault (s : State) : Byte := s.faultReg &&& 0x01

/-- The status port (R254). -/
def State.status (s : State) : Status where
  initStatus := s.initStatus
  cfgW := s.cfgW
  cfgH := s.cfgH
  cfgD := s.cfgD
  cfgDB := s.cfgDB
  swapReq := s.swapReq
  resyncReq := s.resyncReq
  started := s.started
  fault := s.readFault

/-- The bits of a byte in the order they are sent: bit 7 first (R66). -/
def serialBits (b : Byte) : List Bool := (List.range 8).map fun k => b.getLsbD (7 - k)

/-- The bytes of the serial stream: the SerialByte events, in order (R44). -/
def serialBytes (trace : List OutEvent) : List Byte :=
  trace.filterMap fun e =>
    match e with
    | .serialByte b => some b
    | _ => none

/-- The bits on `ser_data` (R254, R66). -/
def serialStream (trace : List OutEvent) : List Bool := (serialBytes trace).flatMap serialBits

/-- The periods programmed so far: the SetPeriod events, in order (R252). -/
def programmedPeriods (trace : List OutEvent) : List Nat :=
  trace.filterMap fun e =>
    match e with
    | .setPeriod p => some p.toNat
    | _ => none

end Sys2Proof.Machine
end

