-- ==== Sys2Proof/Machine/Step.lean ====
section
/-! DEFINITION. One step: the next move of the run is taken (00_scope.md R7, R8; log 1). -/

namespace Sys2Proof.Machine

/-- What a move does, once it is taken off the list. -/
def runMove (m : Move) (s : State) : Host.Outcome State Fault Refusal :=
  match m with
  | .line w _ => whenLegalWord (decode w) fun i => exec i s
  | .port w _ => whenLegalWord (decodePort w) fun i => exec i s
  | .resume _ => resumeCommand s
  | .timeUnit => passTime s

/-- One step of the machine. A run ends after its last listed move (R180). -/
def step (s : State) : Host.Outcome State Fault Refusal :=
  match takeMove s with
  | none => .refused .runEnded
  | some (m, t) => runMove m t

/-- `s` with the instruction whose bits are `w` as the next line of its run. -/
def State.withFetchWord (s : State) (nbits w : Nat) : State := { s with sched := lineOf nbits w :: s.sched }

end Sys2Proof.Machine
end

