-- ==== Sys2Proof/Machine/ColorCodec.lean ====
section
/-! DEFINITION. The colour codec (45_color_codec.md): pure functions the caller evaluates to build the COLOR operand. They
are outside CORE (00_scope.md R4) and no step calls them. -/

namespace Sys2Proof.Machine

/-- `rep(v, n, w)`: an `n`-bit value in a field of `w` bits by bit replication (R221). -/
def bitReplicate (v n w : Nat) : Nat :=
  if w ≤ n then v >>> (n - w) else (v <<< (w - n)) ||| (v >>> (2 * n - w))

/-- The packed 5/6/5 layout (R97, R220). -/
def packColor (r g b : Nat) : Color := BitVec.ofNat 5 r ++ BitVec.ofNat 6 g ++ BitVec.ofNat 5 b

/-- Three channels of `n` bits promoted to a CanonicalColor (R221). -/
def promote (n r g b : Nat) : Color := packColor (bitReplicate r n 5) (bitReplicate g n 6) (bitReplicate b n 5)

/-- `Color333(r, g, b)`: the bits of an input above its low 3 are ignored (R222). -/
def color333 (r g b : Nat) : Color := promote 3 (r % 8) (g % 8) (b % 8)

/-- `Color444(r, g, b)` (R223). -/
def color444 (r g b : BitVec 4) : Color := promote 4 r.toNat g.toNat b.toNat

/-- `Color888(r, g, b)` without gamma (R224). -/
def color888 (r g b : BitVec 8) : Color := promote 8 r.toNat g.toNat b.toNat

/-- `Color888(r, g, b, gamma = true)`, with the uninterpreted table GAMMA (R225, log 10). -/
def color888Gamma (r g b : BitVec 8) : Color := color444 (Config.gamma r) (Config.gamma g) (Config.gamma b)

/-- The primary and secondary mix of sextant `sx` at position `lo` (R226; from general knowledge, log 17). -/
def sextantMix (sx lo : Nat) : Nat × Nat × Nat :=
  match sx with
  | 0 => (255, lo, 0)
  | 1 => (255 - lo, 255, 0)
  | 2 => (0, 255, lo)
  | 3 => (0, 255 - lo, 255)
  | 4 => (lo, 0, 255)
  | _ => (255, 0, 255 - lo)

/-- Saturation: a channel scaled toward 255 (R226, conflict C8). -/
def saturate (sat : BitVec 8) (ch : Nat) : Nat := ch + (((255 - ch) * (256 - sat.toNat)) >>> 8)

/-- Value scaling (R226; from general knowledge, log 17). -/
def scaleValue (val : BitVec 8) (ch : Nat) : Nat := (ch * (val.toNat + 1)) >>> 8

/-- `ColorHSV(hue, sat, val, gamma)` (R226). Only RLSPEC's three points (R227) may carry a claim (U2, log 17). -/
def colorHSV (hue : Int) (sat val : BitVec 8) (gamma : Bool) : Color :=
  let h := (hue % 1536).toNat
  let mix := sextantMix (h >>> 8) (h % 256)
  let fin := fun ch => BitVec.ofNat 8 (scaleValue val (saturate sat ch))
  if gamma then color888Gamma (fin mix.1) (fin mix.2.1) (fin mix.2.2)
  else color888 (fin mix.1) (fin mix.2.1) (fin mix.2.2)

end Sys2Proof.Machine
end

