-- ==== Sys2Proof/Safety.lean ====
section
/-! DEFINITION. The terms claims are stated in: when an operation may run, what a good end of a run is
(43_refresh_scheduler.md R180), the control-bit invariant (20_memory.md R63), the invariant of the whole state, the illegal
words written out from R94, and runs. -/

namespace Sys2Proof.Machine

/-- The application may issue SETPIXEL, FILL, REQSWAP, REQRESYNC (R5, R124, R287). -/
abbrev CommandReady (s : State) : Prop := s.cfg.legal = true ∧ s.started = true ∧ s.todo = []

/-- The interrupt domain may take a step (R5, R124, R202). -/
abbrev EventReady (s : State) : Prop := s.cfg.legal = true ∧ s.started = true ∧ s.halted = false

/-- A transfer overlap has happened: never a good final state (R202). -/
abbrev Faulted (s : State) : Prop := s.faultReg.getLsbD 0 = true

/-- No command is part-way through its accesses and nothing is in flight (R180). -/
abbrev Quiescent (s : State) : Prop := s.todo = [] ∧ s.xferBusy = false

/-- A good end of a finite run: its last move has been taken, it is quiescent and not faulted. R180 says which ends are never
good (faulted, or reached through a refusal). DESIGN CHOICE (log 25): an end with a transfer in flight or a command part-way
through, which R180 calls legitimate to inspect, is not counted as good. -/
abbrev GoodEnd (s : State) : Prop := s.sched = [] ∧ Quiescent s ∧ ¬ Faulted s

/-- The address an access reads or writes. -/
def Access.addr : Access → Nat
  | .store a _ => a
  | .modify a _ _ => a

/-- The framebuffer once the whole of a sequence has been made. -/
def afterAccesses : List Access → Memory → Memory
  | [], m => m
  | .store a v :: rest, m => afterAccesses rest (m.write a v)
  | .modify a keep bits :: rest, m => afterAccesses rest (m.write a ((m.read a &&& keep) ||| bits))

/-- The control bits that byte `i` of a slice carries: `0b11` in the last byte, `0b00` elsewhere (R63). -/
def controlBitsOf (c : Config) (i : Nat) : Byte := if i = c.rowSize - 1 then 0x03 else 0x00

/-- Every byte of every slice of every plane of every half carries its control bits (R63). -/
def ControlBits (c : Config) (m : Memory) : Prop :=
  ∀ h p r i, h < c.halves → p < c.d → r < 16 → i < c.rowSize →
    m.read (c.addr h p r i) &&& 0x03 = controlBitsOf c i

/-- Once the command in progress has ended, the control bits hold (R63, R154). -/
def ControlInv (s : State) : Prop := s.started = true → ControlBits s.cfg (afterAccesses s.todo s.fb)

/-- What holds of the whole state between any two steps. -/
structure Inv (s : State) : Prop where
  /-- The framebuffer is in canonical form. -/
  fb_wf : s.fb.wf
  /-- No byte is listed outside the framebuffer (R61). -/
  fb_inside : ∀ c ∈ s.fb, c.1 < s.cfg.memSize
  /-- `INIT_STATUS` has one of its three values (R30). -/
  status_value : s.initStatus = 0x00 ∨ s.initStatus = 0x01 ∨ s.initStatus = 0xFF
  /-- `STARTED` is 1 exactly after a successful BEGIN (R30). -/
  started_iff : s.started = true ↔ s.initStatus = 0x01
  /-- Bits 7:1 of `FAULT` are 0 (R28). -/
  fault_high : s.faultReg &&& 0xFE = 0x00
  /-- A started block has a legal configuration and the storage it needs (R5, R122). -/
  config_ok : s.started = true → s.cfg.legal = true ∧ s.cfg.fits = true
  /-- `PLANE <= D-1` (R22). -/
  plane_lt : s.started = true → s.plane.toNat < s.cfg.d
  /-- The timer runs exactly when the block is started (R45, R252). -/
  timer_running : s.timerRunning = s.started
  /-- A running timer has at least one time unit left (R251, R252). -/
  timer_pos : s.started = true → 1 ≤ s.timerCnt.toNat
  /-- In single-buffer mode `FRONT_SEL` is 0 and no swap is requested (R25, R27). -/
  single : s.cfg.db = false → s.frontSel = false ∧ s.swapReq = false
  /-- A transfer in flight is of one slice inside the framebuffer (R176, R201). -/
  transfer : s.xferBusy = true → s.xferLen.toNat = s.cfg.rowSize ∧ s.xferIdx.toNat ≤ s.xferLen.toNat ∧
    s.xferBase.toNat + s.xferLen.toNat ≤ s.cfg.memSize
  /-- The command in progress accesses the framebuffer only (R61). -/
  todo_inside : ∀ x ∈ s.todo, x.addr < s.cfg.memSize
  /-- Before a successful BEGIN the registers, flags, timer and trace are as at power-on (R45, R122). -/
  before_start : s.started = false → s.row = 0 ∧ s.plane = 0 ∧ s.tickPeriod = 0 ∧ s.xferBase = 0 ∧ s.xferLen = 0 ∧
    s.xferIdx = 0 ∧ s.swapReq = false ∧ s.resyncReq = false ∧ s.xferBusy = false ∧ s.blank = true ∧ s.frontSel = false ∧
    s.faultReg = 0x00 ∧ s.timerCnt = 0 ∧ s.trace = [] ∧ s.todo = []

/-- The words R94 calls illegal, written from its text: `v[hi:lo]` as the spec has it. -/
def IllegalWord (w : OpWord) : Prop :=
  w.extractLsb 63 60 ∈ [0x0#4, 0x6#4, 0x7#4, 0xB#4, 0xC#4, 0xD#4, 0xE#4, 0xF#4] ∨
    w.extractLsb 59 48 ≠ 0 ∨
    (w.extractLsb 63 60 ≠ 0x2#4 ∧ (w.extractLsb 47 32 ≠ 0 ∨ w.extractLsb 31 16 ≠ 0)) ∨
    (w.extractLsb 63 60 ≠ 0x2#4 ∧ w.extractLsb 63 60 ≠ 0x3#4 ∧ w.extractLsb 15 0 ≠ 0)

/-- The event codes, illegal on the command port (R94). -/
def EventWord (w : OpWord) : Prop := w.extractLsb 63 60 ∈ [0x8#4, 0x9#4, 0xA#4]

/-- What may happen while a command is part-way through its accesses (R8, R151): any number of steps of the interrupt
domain, and any number of the command's own next accesses, in any order. -/
inductive InterruptedRun : State → State → Prop where
  | none (s : State) : InterruptedRun s s
  | event {s t u : State} (i : Instr) (hd : i.domain = .interrupt) (h : exec i s = .next t) (rest : InterruptedRun t u) :
      InterruptedRun s u
  | accesses {s t u : State} (n : Nat) (h : resumeCommand { s with budget := some n } = .next t)
      (rest : InterruptedRun t u) : InterruptedRun s u

/-- The states of the runs of a block of any configuration from power-on, whatever the moves listed. -/
inductive Reachable : State → Prop where
  | start (c : Config) (moves : List Move) : Reachable { State.powerOn c with sched := moves }
  | next {s t : State} (hs : Reachable s) (h : step s = .next t) : Reachable t

/-- The line of a recorded run that holds an event's or a command's word. -/
def lineOfInstr (i : Instr) : Move := .line (encode i) none

/-! ### Endless runs and the fairness of the engine (44_transfer_engine.md R208)

The list of moves in State is finite (log 1); "the hardware never withholds it forever" is about runs without an end, so these
are sequences of moves and of states beside the machine, each state the step of the one before. -/

/-- The move `m` leads from `s` to `t`. -/
def Takes (m : Move) (s t : State) : Prop := step { s with sched := [m] } = .next t

/-- A run without an end: `moves n` leads from `states n` to `states (n + 1)`. -/
def EndlessRun (moves : Nat → Move) (states : Nat → State) : Prop := ∀ n, Takes (moves n) (states n) (states (n + 1))

/-- The move is a step of the engine agent (R200, R255). -/
def EngineMove (m : Move) : Prop := ∃ w n, m = .line w n ∧ (decode w = .ok .xferByte ∨ decode w = .ok .xferDone)

/-- A step of the engine agent is enabled (R204, R205). -/
def EngineEnabled (s : State) : Prop := (∃ t, exec .xferByte s = .next t) ∨ ∃ t, exec .xferDone s = .next t

/-- Weak fairness of the engine agent (R208): it is not enabled for ever without taking a step. -/
def EngineFair (moves : Nat → Move) (states : Nat → State) : Prop :=
  ∀ n, (∀ k, n ≤ k → EngineEnabled (states k)) → ∃ k, n ≤ k ∧ EngineMove (moves k)

end Sys2Proof.Machine
end

