-- ==== Sys2Proof/Certificates/Slice0/Obligations.lean ====
section
/-! DEFINITION. The statements for the provers. Each docstring names the rule of spec/ it formalises; "decision Dn" is the
spec's own choice in 92_eei_decisions.md. A premise `Inv s`, `s.fb.wf` or `s.plane.toNat < s.cfg.d` is the model's invariant,
stated as obligations of its own (InvHoldsAtPowerOn, InvIsKeptByEveryStep). -/

open Sys2Proof Sys2Proof.Machine

/-! ### The step and the encoding -/

/-- R7, R9: a line of the recorded run is decoded and its operation runs, on the state with that move taken and with the
number of accesses the move gives the application (log 1, log 2: the list of moves is the model's own input). -/
def Obligations.StepRunsTheDecodedLine : Prop :=
  ∀ (s : State) (w : OpWord) (n : Option Nat) (rest : List Move) (i : Instr),
    s.sched = .line w n :: rest → decode w = .ok i →
      step s = exec i { s with sched := rest, budget := n }

/-- R94, R254: on the command port a command runs as it does in a line, and an event code is refused with no state change. -/
def Obligations.CommandPortTakesCommandsOnly : Prop :=
  ∀ (s : State) (w : OpWord) (n : Option Nat) (rest : List Move) (i : Instr),
    s.sched = .port w n :: rest → decode w = .ok i →
      (i.domain = .application → step s = exec i { s with sched := rest, budget := n }) ∧
      (i.domain = .interrupt → step s = .refused (.illegalWord .eventOnPort))

/-- The table word of a well-formed operation decodes to it, and placed as the next line it is what the next step runs. -/
def Obligations.FetchedWordRunsItsInstruction : Prop :=
  ∀ (i : Instr) (s : State), i.wf = true →
    decodeTableWord 64 (encode i).toNat = some i ∧
      step (s.withFetchWord 64 (encode i).toNat) = exec i { s with budget := none }

/-- R180: a run of a finite list of moves has no step after the last one, and a `resume` or a command's accesses need a
command in progress (R8). -/
def Obligations.EndedRunHasNoStep : Prop :=
  ∀ s : State, (s.sched = [] → step s = .refused .runEnded) ∧
    ∀ n rest, s.sched = .resume n :: rest → s.todo = [] → step s = .refused .noCommandInProgress

/-- R94 (decision D25): the illegal words, exactly, are refused; on the command port the event codes are too. -/
def Obligations.IllegalWordsAreRefused : Prop :=
  ∀ (s : State) (w : OpWord) (n : Option Nat) (rest : List Move),
    (s.sched = .line w n :: rest →
      (IllegalWord w ↔ ∃ e, step s = .refused (.illegalWord e))) ∧
    (s.sched = .port w n :: rest →
      (IllegalWord w ∨ EventWord w ↔ ∃ e, step s = .refused (.illegalWord e)))

/-- R92 (decision D2): "A decoder compares `w & mask` with `match` as `opcode_table.json` lists them", row by row. -/
def Obligations.DecoderFollowsTheOpcodeTable : Prop :=
  ∀ w : OpWord,
    (decode w = .ok .beginOp ↔ w &&& 0xFFFFFFFFFFFFFFFF = 0x1000000000000000) ∧
    ((∃ x y color, decode w = .ok (.setPixel x y color)) ↔ w &&& 0xFFFF000000000000 = 0x2000000000000000) ∧
    ((∃ color, decode w = .ok (.fill color)) ↔ w &&& 0xFFFFFFFFFFFF0000 = 0x3000000000000000) ∧
    (decode w = .ok .reqSwap ↔ w &&& 0xFFFFFFFFFFFFFFFF = 0x4000000000000000) ∧
    (decode w = .ok .reqResync ↔ w &&& 0xFFFFFFFFFFFFFFFF = 0x5000000000000000) ∧
    (decode w = .ok .tick ↔ w &&& 0xFFFFFFFFFFFFFFFF = 0x8000000000000000) ∧
    (decode w = .ok .xferByte ↔ w &&& 0xFFFFFFFFFFFFFFFF = 0x9000000000000000) ∧
    (decode w = .ok .xferDone ↔ w &&& 0xFFFFFFFFFFFFFFFF = 0xA000000000000000)

/-- R91 (decision D3): X and Y are read as two's complement, COLOR as it is, nothing is scaled. -/
def Obligations.OperandFieldsAreReadAsStated : Prop :=
  ∀ x y color : BitVec 16,
    decode (0x2000#16 ++ x ++ y ++ color) = .ok (.setPixel x.toInt y.toInt color) ∧
    decode (0x3000#16 ++ 0x0000#16 ++ 0x0000#16 ++ color) = .ok (.fill color)

/-- Every word of V1 (95_test_vectors.md), and the event words: each decodes to the operation it stands for, or to nothing
(the names of the reasons are the model's, log 16). -/
def Obligations.SpecWordsDecode : Prop :=
  decode 0x1000000000000000 = .ok .beginOp ∧
  decode 0x20000002001EF800 = .ok (.setPixel 2 30 0xF800) ∧
  decode 0x2000FFFF0000F800 = .ok (.setPixel (-1) 0 0xF800) ∧
  decode 0x200000050028001F = .ok (.setPixel 5 40 0x001F) ∧
  decode 0x3000000000005546 = .ok (.fill 0x5546) ∧
  decode 0x4000000000000000 = .ok .reqSwap ∧
  decode 0x5000000000000000 = .ok .reqResync ∧
  decode 0x8000000000000000 = .ok .tick ∧
  decode 0x9000000000000000 = .ok .xferByte ∧
  decode 0xA000000000000000 = .ok .xferDone ∧
  decode 0x0000000000000000 = .error .unassignedOp ∧
  decode 0x1000000000000001 = .error .unusedFieldNotZero ∧
  decode 0x2001000000000000 = .error .reservedNotZero ∧
  decode 0x3000000100005546 = .error .unusedFieldNotZero ∧
  decodePort 0x8000000000000000 = .error .eventOnPort ∧
  decode 0x6000000000000000 = .error .unassignedOp

/-- Decode and encode agree, for every well-formed operation: no bit of an encoding is dropped. -/
def Obligations.DecodeInvertsEncode : Prop :=
  ∀ i : Instr, i.wf = true → decode (encode i) = .ok i

/-- Every word that decodes is the one word of a well-formed operation. -/
def Obligations.EncodeInvertsDecode : Prop :=
  ∀ (w : OpWord) (i : Instr), decode w = .ok i → encode i = w ∧ i.wf = true

/-! ### Power-on and BEGIN -/

/-- R270 (decision D24): every register and flag has its power-on value, the trace is empty, and only BEGIN is accepted.
(The framebuffer's power-on content is unspecified; the model's choice of it, log 3, is not stated here. That time passes idly under
an illegal configuration too is the model's choice, log 15, and that an
event that cannot occur answers a refusal, log 13.) -/
def Obligations.PowerOnAcceptsOnlyBegin : Prop :=
  ∀ (c : Config),
    ((State.powerOn c).started = false ∧ (State.powerOn c).initStatus = 0x00 ∧ (State.powerOn c).blank = true ∧
      (State.powerOn c).timerRunning = false ∧ (State.powerOn c).timerCnt = 0 ∧ (State.powerOn c).row = 0 ∧
      (State.powerOn c).plane = 0 ∧ (State.powerOn c).tickPeriod = 0 ∧ (State.powerOn c).xferBase = 0 ∧
      (State.powerOn c).xferLen = 0 ∧ (State.powerOn c).xferIdx = 0 ∧ (State.powerOn c).xferBusy = false ∧
      (State.powerOn c).swapReq = false ∧ (State.powerOn c).resyncReq = false ∧ (State.powerOn c).frontSel = false ∧
      (State.powerOn c).faultReg = 0x00 ∧ (State.powerOn c).trace = []) ∧
    (∀ i : Instr, i ≠ .beginOp → ∃ r, exec i (State.powerOn c) = .refused r) ∧
    passTime (State.powerOn c) = .next (State.powerOn c) ∧
    (c.legal = true → ∃ t, exec .beginOp (State.powerOn c) = .next t)

/-- R120, R122 (what BEGIN installs besides `(15, D-1)`, and when storage "cannot be allocated", are the spec's decisions
D10, D12, D20, D21): with enough storage it clears the framebuffer, stamps the control bits, sets every register, emits one
clear pulse and starts the timer; without, it only records the failure, and every other piece of state keeps its value. -/
def Obligations.BeginInstallsTheStartState : Prop :=
  ∀ s : State, s.cfg.legal = true → s.todo = [] → s.initStatus = 0x00 → s.fb.wf →
    (s.cfg.memBytes < s.cfg.memSize → exec .beginOp s = .next { s with initStatus := 0xFF }) ∧
    (s.cfg.memSize ≤ s.cfg.memBytes → ∃ m : Memory,
      exec .beginOp s = .next { s with
        row := 15, plane := BitVec.ofNat 2 (s.cfg.d - 1), frontSel := false, swapReq := false, resyncReq := false,
        xferBusy := false, xferBase := 0, xferLen := 0, xferIdx := 0, faultReg := 0x00, blank := true,
        tickPeriod := BitVec.ofNat 32 s.cfg.basePeriod, timerCnt := BitVec.ofNat 32 s.cfg.basePeriod,
        timerRunning := true, started := true, initStatus := 0x01, fb := m, trace := s.trace ++ [.clearPulse] } ∧
      m.wf ∧
      (∀ h p r i, h < s.cfg.halves → p < s.cfg.d → r < 16 → i < s.cfg.rowSize →
        m.read (s.cfg.addr h p r i) = if i = s.cfg.rowSize - 1 then 0x03 else 0x00) ∧
      ∀ a, s.cfg.memSize ≤ a → m.read a = s.fb.read a)

/-- R123 (decision D14): a second BEGIN, or one after a failure, is refused.
(Which reason a refusal reports is the model's, log 16.) -/
def Obligations.BeginRunsOnce : Prop :=
  ∀ s : State, s.cfg.legal = true → s.todo = [] → s.initStatus ≠ 0x00 → exec .beginOp s = .refused .alreadyBegun

/-- R124 (decision D14): every other command and every event is refused while `STARTED = 0`; there the timer is stopped and
no transfer is in flight.
(R124 says of XFERBYTE and
XFERDONE only that they cannot occur there: that they answer a refusal is the model's choice, log 13. Which reason a refusal
reports is the model's, log 16.) -/
def Obligations.NothingRunsBeforeBegin : Prop :=
  ∀ s : State, s.cfg.legal = true → s.started = false →
    (∀ i : Instr, i ≠ .beginOp → exec i s = .refused .notStarted) ∧
    (Inv s → s.timerRunning = false ∧ s.xferBusy = false)

/-- R5 (decision D13): a configuration outside the legal values is refused, whatever the operation. -/
def Obligations.IllegalConfigurationsAreRefused : Prop :=
  ∀ (s : State) (i : Instr),
    (s.cfg.w < 32 ∨ s.cfg.h < 32 ∨ s.cfg.d < 1 ∨ 4 < s.cfg.d ∨ s.cfg.basePeriod < 1 ∨
      2 ^ 32 ≤ s.cfg.basePeriod * 2 ^ (s.cfg.d - 1) ∨ 2 ^ 32 < s.cfg.memBytes) →
    exec i s = .refused .illegalConfig

/-- R287 (decision D1): no second command starts while one is in progress.
(Which reason a refusal reports is the model's, log 16.) -/
def Obligations.SecondCommandIsRefused : Prop :=
  ∀ (s : State) (i : Instr), s.cfg.legal = true → s.started = true → s.todo ≠ [] → i.domain = .application →
    exec i s = .refused .commandInProgress

/-- R271: there is no way back from `STARTED = 1` to `STARTED = 0`. -/
def Obligations.StartedIsForLife : Prop :=
  ∀ s t : State, step s = .next t → s.started = true → t.started = true

/-! ### SETPIXEL, FILL and the request flags -/

/-- R150: a SETPIXEL with no event in between completes; in each plane the byte of the pixel's place gets the plane's bit of
each channel and keeps its other bits; nothing else changes, and nothing at all where the pixel has no place. -/
def Obligations.SetPixelWritesItsPlace : Prop :=
  ∀ (s : State) (x y : Int) (color : Color), CommandReady s → s.budget = none → s.fb.wf →
    (mapPixel s.cfg x y = none → exec (.setPixel x y color) s = .next s) ∧
    ∀ off grp : Nat, mapPixel s.cfg x y = some ⟨off, grp⟩ → ∃ m : Memory,
      exec (.setPixel x y color) s = .next { s with fb := m } ∧ m.wf ∧
      (∀ p, p < s.cfg.d →
        m.read (s.backBase + p * s.cfg.planeSize + off) =
          (s.fb.read (s.backBase + p * s.cfg.planeSize + off) &&& ~~~(0b111#8 <<< (if grp = 0 then 5 else 2))) |||
            ((BitVec.ofBool ((color.extractLsb 15 12).getLsbD (3 - p)) ++
              BitVec.ofBool ((color.extractLsb 10 7).getLsbD (3 - p)) ++
              BitVec.ofBool ((color.extractLsb 4 1).getLsbD (3 - p))).setWidth 8 <<< (if grp = 0 then 5 else 2))) ∧
      ∀ a, (∀ p, p < s.cfg.d → a ≠ s.backBase + p * s.cfg.planeSize + off) → m.read a = s.fb.read a

/-- R131, R243: a SETPIXEL outside the panel changes no state of any kind, makes no access and is no error, whether or not
an event was to fall within it. -/
def Obligations.SetPixelOutOfRangeDoesNothing : Prop :=
  ∀ (s : State) (x y : Int) (color : Color), CommandReady s →
    (x < 0 ∨ (s.cfg.w : Int) ≤ x ∨ y < 0 ∨ (s.cfg.h : Int) ≤ y) →
    exec (.setPixel x y color) s = .next s

/-- R97, R130, R140: after SETPIXEL the three bits of the pixel in every plane are the colour's bits `c[15-p]`, `c[10-p]`,
`c[4-p]`, and every bit of every other pixel of the panel is as before. -/
def Obligations.SetPixelChangesOnePixelOnly : Prop :=
  ∀ (s t : State) (x y : Int) (color : Color), CommandReady s → s.budget = none → s.fb.wf → InRange s.cfg x y →
    exec (.setPixel x y color) s = .next t →
    ∀ (x' y' : Int) (p : Nat) (ch : Channel) (o b : Nat), InRange s.cfg x' y' → p < s.cfg.d →
      slot s.cfg x' y' p ch = some (o, b) →
      (t.fb.read (s.backBase + o)).getLsbD b =
        if x' = x ∧ y' = y then
          match ch with
          | .red => color.getLsbD (15 - p)
          | .green => color.getLsbD (10 - p)
          | .blue => color.getLsbD (4 - p)
        else (s.fb.read (s.backBase + o)).getLsbD b

/-- R153 with R98: FILL with no event in between completes; in the back half every byte of plane `p` is the plane's fill
byte, with both control bits set in the last byte of every slice; every byte outside the back half is as before. -/
def Obligations.FillWritesTheBackHalf : Prop :=
  ∀ (s : State) (color : Color), CommandReady s → s.budget = none → s.fb.wf →
    ∃ m : Memory, exec (.fill color) s = .next { s with fb := m } ∧ m.wf ∧
      (∀ p r i, p < s.cfg.d → r < 16 → i < s.cfg.rowSize →
        let t : BitVec 3 := BitVec.ofBool ((color.extractLsb 15 12).getLsbD (3 - p)) ++
          BitVec.ofBool ((color.extractLsb 10 7).getLsbD (3 - p)) ++ BitVec.ofBool ((color.extractLsb 4 1).getLsbD (3 - p))
        let b : Byte := t ++ t ++ 0b00#2
        m.read (s.cfg.addr s.backHalf p r i) = if i = s.cfg.rowSize - 1 then b ||| 0x03 else b) ∧
      ∀ a, (a < s.backBase ∨ s.backBase + s.cfg.bufSize ≤ a) → m.read a = s.fb.read a

/-- R154, R282: after phase 1 of FILL, and before phase 2, every last byte of a slice of the back half has its control bits
clear, and the accesses left are the `16 * D` read-write pairs: the window a single-buffer scan can fall into. -/
def Obligations.FillWindowHasControlBitsClear : Prop :=
  ∀ (s : State) (color : Color), CommandReady s → s.fb.wf → s.budget = some (s.cfg.d * s.cfg.planeSize) →
    ∃ t, exec (.fill color) s = .next t ∧ accessCount t.todo = 32 * s.cfg.d ∧
      ∀ p r, p < s.cfg.d → r < 16 →
        t.fb.read (s.cfg.addr s.backHalf p r (s.cfg.rowSize - 1)) &&& 0x03 = 0x00

/-- R152, R155: an in-range SETPIXEL ends after exactly `2 * D` accesses (at most 8), a FILL after exactly
`D * plane_size + 32 * D`; neither waits for anything. -/
def Obligations.AccessSequencesAreBounded : Prop :=
  ∀ (s : State) (n : Nat), CommandReady s →
    (∀ (x y : Int) (color : Color), InRange s.cfg x y →
      ∃ t, exec (.setPixel x y color) { s with budget := some n } = .next t ∧
        (t.todo = [] ↔ 2 * s.cfg.d ≤ n) ∧ 2 * s.cfg.d ≤ 8) ∧
    (∀ color : Color,
      ∃ t, exec (.fill color) { s with budget := some n } = .next t ∧
        (t.todo = [] ↔ s.cfg.d * s.cfg.planeSize + 32 * s.cfg.d ≤ n))

/-- R8, R151: a SETPIXEL or FILL that is interrupted any number of times, each time after any number of accesses and by any
steps of the interrupt domain, and then goes on to its end, leaves the same framebuffer as the uninterrupted command: it completes, and its addresses are the
ones it started with. -/
def Obligations.InterruptionsDoNotChangeTheFramebuffer : Prop :=
  ∀ (s : State) (i : Instr) (n : Nat), CommandReady s → s.fb.wf →
    ((∃ x y color, i = .setPixel x y color) ∨ ∃ color, i = .fill color) →
    ∃ t u, exec i { s with budget := some n } = .next t ∧ exec i { s with budget := none } = .next u ∧
      ∀ t', InterruptedRun t t' →
        (t'.todo = [] → t'.fb = u.fb) ∧
        (t'.todo ≠ [] → ∃ v, resumeCommand { t' with budget := none } = .next v ∧ v.todo = [] ∧ v.fb = u.fb)

/-- R157: REQSWAP sets the swap request in double-buffer mode and changes nothing in single-buffer mode. -/
def Obligations.ReqSwapSetsItsFlag : Prop :=
  ∀ s : State, CommandReady s →
    (s.cfg.db = true → exec .reqSwap s = .next { s with swapReq := true }) ∧
    (s.cfg.db = false → exec .reqSwap s = .next s)

/-- R158: REQRESYNC sets the resync request unconditionally. -/
def Obligations.ReqResyncSetsItsFlag : Prop :=
  ∀ s : State, CommandReady s → exec .reqResync s = .next { s with resyncReq := true }

/-- R26: a request made again before it is consumed is the same request. -/
def Obligations.RequestsCoalesce : Prop :=
  ∀ (s t : State) (i : Instr), (i = .reqSwap ∨ i = .reqResync) → exec i s = .next t → exec i t = .next t

/-- R159: none of the four commands blocks; none of them writes the scan position, the period, FRONT_SEL, the engine's
registers or BLANK (nor anything else but the framebuffer and the two requests), and, FRONT_SEL in `back_base` aside, none
reads them: with other values there it does the same. -/
def Obligations.CommandsLeaveTheSchedulerAlone : Prop :=
  ∀ (s : State) (i : Instr), i.domain = .application → i ≠ .beginOp →
    (CommandReady s → s.budget = none → ∃ t, exec i s = .next t ∧ t.todo = []) ∧
    ∀ t, exec i s = .next t →
      t = { s with fb := t.fb, todo := t.todo, swapReq := t.swapReq, resyncReq := t.resyncReq } ∧
      (s.swapReq = true → t.swapReq = true) ∧ (s.resyncReq = true → t.resyncReq = true) ∧
      ∀ (row : BitVec 4) (plane : BitVec 2) (period base len idx : Reg32) (busy blank : Bool),
        exec i { s with row := row, plane := plane, tickPeriod := period, xferBase := base, xferLen := len,
                        xferIdx := idx, xferBusy := busy, blank := blank } =
          .next { t with row := row, plane := plane, tickPeriod := period, xferBase := base, xferLen := len,
                         xferIdx := idx, xferBusy := busy, blank := blank }

/-- R71 (b): SETPIXEL, FILL, REQSWAP and REQRESYNC, and the part of them made before an event, write the back half only. -/
def Obligations.CommandsWriteOnlyTheBackHalf : Prop :=
  ∀ (s t : State) (i : Instr), i.domain = .application → i ≠ .beginOp → s.fb.wf → exec i s = .next t →
    ∀ a, (a < s.backBase ∨ s.backBase + s.cfg.bufSize ≤ a) → t.fb.read a = s.fb.read a

/-! ### TICK -/

/-- R170, with R24, R173 to R176, R201 and R202: TICK completes from every state in which it may run, and its six steps are
these values and no other change. The timer reload beside them is R34 and R252 for a TICK of the timer, and the model's choice
for a TICK driven by hand (log 9). (`PLANE <= D-1` is the invariant R22.) -/
def Obligations.TickIsTheSixSteps : Prop :=
  ∀ s : State, EventReady s → s.plane.toNat < s.cfg.d →
    let boundary : Bool := decide (s.row = 15 ∧ s.plane.toNat = s.cfg.d - 1)
    let clear : Bool := boundary && s.resyncReq
    let swap : Bool := boundary && !s.resyncReq && s.swapReq && s.cfg.db
    let front : Bool := if swap then !s.frontSel else s.frontSel
    let row : BitVec 4 := if s.row = 15 then 0 else s.row + 1
    let plane : BitVec 2 :=
      if s.row = 15 then (if s.plane.toNat = s.cfg.d - 1 then 0 else s.plane + 1) else s.plane
    let period : Reg32 := BitVec.ofNat 32 (s.cfg.basePeriod * 2 ^ (s.cfg.d - 1 - s.plane.toNat))
    let a : Nat := s.cfg.addr front.toNat plane.toNat row.toNat 0
    let n : Nat := s.cfg.rowSize
    exec .tick s = .next { s with
      row := row
      plane := plane
      tickPeriod := period
      timerCnt := period
      blank := false
      frontSel := front
      resyncReq := s.resyncReq && !clear
      swapReq := s.swapReq && !swap
      xferBase := if s.xferBusy then s.xferBase else BitVec.ofNat 32 a
      xferLen := if s.xferBusy then s.xferLen else BitVec.ofNat 32 n
      xferIdx := if s.xferBusy then s.xferIdx else 0
      xferBusy := true
      faultReg := if s.xferBusy then s.faultReg ||| 0x01 else s.faultReg
      trace := s.trace ++ [.blankOn] ++ (if clear then [.clearPulse] else []) ++
        [.setPeriod period, if s.xferBusy then .xferDropped a n else .xferStart a n, .blankOff] }

/-- R173: at a boundary tick at most one action, resync before swap; at any other tick both flags and FRONT_SEL stay; and
never is a byte of the framebuffer changed. -/
def Obligations.BoundaryAppliesAtMostOneAction : Prop :=
  ∀ s : State, EventReady s → s.plane.toNat < s.cfg.d → ∃ t, exec .tick s = .next t ∧ t.fb = s.fb ∧
    ((s.row ≠ 15 ∨ s.plane.toNat ≠ s.cfg.d - 1) →
      t.resyncReq = s.resyncReq ∧ t.swapReq = s.swapReq ∧ t.frontSel = s.frontSel) ∧
    (s.row = 15 → s.plane.toNat = s.cfg.d - 1 → s.resyncReq = true →
      t.resyncReq = false ∧ t.swapReq = s.swapReq ∧ t.frontSel = s.frontSel) ∧
    (s.row = 15 → s.plane.toNat = s.cfg.d - 1 → s.resyncReq = false → s.swapReq = true → s.cfg.db = true →
      t.resyncReq = false ∧ t.swapReq = false ∧ t.frontSel = !s.frontSel)

/-- R27: whatever the move, FRONT_SEL changes only in a boundary tick with a swap pending and no resync pending, in
double-buffer mode; the flag is then cleared and the framebuffer is as it was. -/
def Obligations.FrontSelChangesOnlyAtABoundarySwap : Prop :=
  ∀ s t : State, Inv s → step s = .next t → t.frontSel ≠ s.frontSel →
    s.cfg.db = true ∧ s.swapReq = true ∧ s.resyncReq = false ∧ s.row = 15 ∧ s.plane.toNat = s.cfg.d - 1 ∧
      t.swapReq = false ∧ t.row = 0 ∧ t.plane = 0 ∧ t.fb = s.fb

/-- R73, R173, R176: the boundary tick that consumes a swap request hands the back half, byte for byte, to the scan-out: its
own transfer already starts at the first slice of that half, and the old front half is the new back half. -/
def Obligations.SwapHandsTheBackHalfToScanOut : Prop :=
  ∀ s : State, Inv s → EventReady s → s.cfg.db = true → s.swapReq = true → s.resyncReq = false → s.row = 15 →
    s.plane.toNat = s.cfg.d - 1 → s.xferBusy = false →
    ∃ t, exec .tick s = .next t ∧ t.frontBase = s.backBase ∧ t.backBase = s.frontBase ∧ t.fb = s.fb ∧
      t.xferBusy = true ∧ t.xferBase.toNat = s.backBase ∧ t.xferLen.toNat = s.cfg.rowSize ∧ t.xferIdx = 0

/-- R202 (decision D17): on an overlap the fault bit is set, the request of the new position's slice dropped and said in the
trace, the transfer in flight untouched, and the tick's steps 1 to 4 and 6 are made, with these events and no other; in a debug
build no further event has a step (the name of the fault is the model's, log 6), and in a release build the block is not
halted. -/
def Obligations.OverlapDropsTheRequest : Prop :=
  ∀ s : State, EventReady s → s.plane.toNat < s.cfg.d → s.xferBusy = true →
    let boundary : Bool := decide (s.row = 15 ∧ s.plane.toNat = s.cfg.d - 1)
    let clear : Bool := boundary && s.resyncReq
    let swap : Bool := boundary && !s.resyncReq && s.swapReq && s.cfg.db
    ∃ t, exec .tick s = .next t ∧ Faulted t ∧ t.faultReg = s.faultReg ||| 0x01 ∧ t.xferBusy = true ∧
      t.xferBase = s.xferBase ∧ t.xferLen = s.xferLen ∧ t.xferIdx = s.xferIdx ∧ t.fb = s.fb ∧ t.blank = false ∧
      t.row = s.row + 1 ∧
      t.plane = (if s.row = 15 then (if s.plane.toNat = s.cfg.d - 1 then 0 else s.plane + 1) else s.plane) ∧
      t.frontSel = (if swap then !s.frontSel else s.frontSel) ∧ t.swapReq = (s.swapReq && !swap) ∧
      t.resyncReq = (s.resyncReq && !clear) ∧
      t.tickPeriod.toNat = s.cfg.basePeriod * 2 ^ (s.cfg.d - 1 - s.plane.toNat) ∧
      t.trace = s.trace ++ [.blankOn] ++ (if clear then [.clearPulse] else []) ++ [.setPeriod t.tickPeriod,
        .xferDropped (s.cfg.addr t.frontSel.toNat t.plane.toNat t.row.toNat 0) s.cfg.rowSize, .blankOff] ∧
      (s.cfg.debugTrap = true → ∀ i : Instr, i.domain = .interrupt → exec i t = .fault .debugTrapHalt) ∧
      (s.cfg.debugTrap = false → t.halted = false)

/-- R29 (decision D17): a set bit of FAULT stays set whatever the move, and in a debug build `XFER_OVERLAP` leaves TICK,
XFERBYTE and XFERDONE without a step (the name of the fault is the model's, log 6). -/
def Obligations.FaultIsSticky : Prop :=
  (∀ (s t : State) (k : Nat), Inv s → step s = .next t → s.faultReg.getLsbD k = true → t.faultReg.getLsbD k = true) ∧
  ∀ (s : State) (i : Instr), s.cfg.legal = true → s.started = true → s.cfg.debugTrap = true → Faulted s →
    i.domain = .interrupt → exec i s = .fault .debugTrapHalt

/-- R178: TICK does not read the framebuffer: what it does is the same over any other content. -/
def Obligations.TickDoesNotReadTheFramebuffer : Prop :=
  ∀ (s t : State) (m : Memory), exec .tick s = .next t → exec .tick { s with fb := m } = .next { t with fb := m }

/-- R71 (a), R253: no event, and no time unit, writes the framebuffer, touches the command in progress, makes a request, or
changes what belongs to BEGIN. -/
def Obligations.InterruptDomainNeverWritesTheFramebuffer : Prop :=
  ∀ s t : State, ((∃ i : Instr, i.domain = .interrupt ∧ exec i s = .next t) ∨ passTime s = .next t) →
    t.fb = s.fb ∧ t.todo = s.todo ∧ t.cfg = s.cfg ∧ t.started = s.started ∧ t.initStatus = s.initStatus ∧
      t.timerRunning = s.timerRunning ∧ (t.swapReq = true → s.swapReq = true) ∧
      (t.resyncReq = true → s.resyncReq = true)

/-- R252 (decision D21): a successful BEGIN loads the timer with BASE_PERIOD and starts it; the TICK happens when exactly as
many time units have passed as the running timer holds, and until then they change nothing but the count; a TICK reloads it
with the period it has just written (for a TICK driven by hand that is the model's choice, log 9). -/
def Obligations.TickTimerFiresAfterItsPeriod : Prop :=
  (∀ s t : State, exec .beginOp s = .next t → t.initStatus = 0x01 →
    t.timerCnt = BitVec.ofNat 32 s.cfg.basePeriod ∧ t.timerRunning = true) ∧
  (∀ (s : State) (n k : Nat) (rest : List Move), s.timerRunning = true → s.timerCnt.toNat = n + 1 → k ≤ n →
    s.sched = List.replicate k .timeUnit ++ rest →
    ∃ t : State, core.run k s = .next t ∧ t.timerCnt.toNat = n + 1 - k ∧
      t = { s with timerCnt := t.timerCnt, sched := rest, budget := t.budget }) ∧
  (∀ (s : State) (n : Nat) (rest : List Move), s.timerRunning = true → s.timerCnt.toNat = n + 1 →
    s.sched = List.replicate (n + 1) .timeUnit ++ rest →
    core.run (n + 1) s = exec .tick { s with sched := rest, budget := none }) ∧
  (∀ s t : State, exec .tick s = .next t → t.timerCnt = t.tickPeriod)

/-- R24, R174 (S4): over any `16 * D` consecutive ticks of a release build the scan position comes back to where it was,
and each plane `p` has programmed exactly 16 periods of `BASE_PERIOD * 2^(D-1-p)`, together `16 * BASE_PERIOD * (2^D - 1)`. -/
def Obligations.FullCycleWeighsThePlanes : Prop :=
  ∀ (s : State) (rest : List Move), EventReady s → s.plane.toNat < s.cfg.d → s.cfg.debugTrap = false →
    s.sched = List.replicate (16 * s.cfg.d) (lineOfInstr .tick) ++ rest →
    ∃ (t : State) (es : List OutEvent), core.run (16 * s.cfg.d) s = .next t ∧ t.row = s.row ∧ t.plane = s.plane ∧
      t.trace = s.trace ++ es ∧
      (programmedPeriods es).sum = 16 * s.cfg.basePeriod * (2 ^ s.cfg.d - 1) ∧
      ∀ p, p < s.cfg.d → (programmedPeriods es).count (s.cfg.basePeriod * 2 ^ (s.cfg.d - 1 - p)) = 16

/-! ### The transfer engine -/

/-- R204 (decision D18): XFERBYTE fetches the byte at `XFER_BASE + XFER_IDX` now, emits it and counts it; nothing else
changes; and where it cannot occur there is no step, which the model answers with the refusal `eventNotEnabled`, its own choice
(log 13). -/
def Obligations.XferByteSendsOneByte : Prop :=
  ∀ s : State, EventReady s →
    (s.xferBusy = true → s.xferIdx.toNat < s.xferLen.toNat → s.xferBase.toNat + s.xferIdx.toNat < s.cfg.memSize →
      exec .xferByte s = .next { s with
        xferIdx := s.xferIdx + 1
        trace := s.trace ++ [.serialByte (s.fb.read (s.xferBase.toNat + s.xferIdx.toNat))] }) ∧
    ((s.xferBusy = false ∨ s.xferLen.toNat ≤ s.xferIdx.toNat) → exec .xferByte s = .refused .eventNotEnabled)

/-- R205: XFERDONE clears XFER_BUSY and says so; the engine's other registers keep their values; and where it cannot occur
there is no step, which the model answers with the refusal `eventNotEnabled`, its own choice (log 13). -/
def Obligations.XferDoneFreesTheEngine : Prop :=
  ∀ s : State, EventReady s →
    (s.xferBusy = true → s.xferIdx = s.xferLen →
      exec .xferDone s = .next { s with xferBusy := false, trace := s.trace ++ [.xferDone] }) ∧
    ((s.xferBusy = false ∨ s.xferIdx ≠ s.xferLen) → exec .xferDone s = .refused .eventNotEnabled)

/-- R206: a transfer that has just been accepted, left alone, is exactly `XFER_LEN` XFERBYTE steps and one XFERDONE, and the
bytes sent are the slice in ascending address order (R65). -/
def Obligations.TransferSendsTheWholeSlice : Prop :=
  ∀ (s : State) (rest : List Move), Inv s → EventReady s → s.xferBusy = true → s.xferIdx = 0 →
    s.sched = List.replicate s.xferLen.toNat (lineOfInstr .xferByte) ++ lineOfInstr .xferDone :: rest →
    core.run (s.xferLen.toNat + 1) s = .next { s with
      xferIdx := s.xferLen
      xferBusy := false
      sched := rest
      budget := none
      trace := s.trace ++
        (List.range s.xferLen.toNat).map (fun k => .serialByte (s.fb.read (s.xferBase.toNat + k))) ++ [.xferDone] }

/-- R208: while a transfer is in flight and the block is not halted, the engine always has a step. -/
def Obligations.EngineAlwaysHasAStep : Prop :=
  ∀ s : State, Inv s → EventReady s → s.xferBusy = true →
    ∃ t, exec .xferByte s = .next t ∨ exec .xferDone s = .next t

/-- R66: the bits of a byte on the link are `b[7]` first and `b[0]` last; R204's example 0x03, V16's 0xA5. -/
def Obligations.SerialBitsAreMostSignificantFirst : Prop :=
  (∀ b : Byte, serialBits b = [b.getLsbD 7, b.getLsbD 6, b.getLsbD 5, b.getLsbD 4, b.getLsbD 3, b.getLsbD 2,
    b.getLsbD 1, b.getLsbD 0]) ∧
  serialBits 0x03 = [false, false, false, false, false, false, true, true] ∧
  serialBits 0xA5 = [true, false, true, false, false, true, false, true]

/-! ### The layout and the address mapper -/

/-- R60: `addr` is a bijection from the legal (half, plane, row, byte) onto the framebuffer. -/
def Obligations.AddressesCoverTheFramebuffer : Prop :=
  ∀ c : Config, c.legal = true →
    (∀ h p r i, h < c.halves → p < c.d → r < 16 → i < c.rowSize → c.addr h p r i < c.memSize) ∧
    ∀ a, a < c.memSize → ∃ h p r i, (h < c.halves ∧ p < c.d ∧ r < 16 ∧ i < c.rowSize ∧ c.addr h p r i = a) ∧
      ∀ h' p' r' i', h' < c.halves → p' < c.d → r' < 16 → i' < c.rowSize → c.addr h' p' r' i' = a →
        h' = h ∧ p' = p ∧ r' = r ∧ i' = i

/-- R132 to R136 (decisions D5 to D7): the fold of an in-range pixel, even and odd segments, by division and remainder, and
the bit of each channel. -/
def Obligations.MapperFoldsTheSegments : Prop :=
  (∀ (c : Config) (x y : Nat), c.legal = true → x < c.w → y < c.h →
    (y / 32 % 2 = 0 →
      mapPixel c x y = some ⟨(y % 32) % 16 * c.rowSize + (y % 32 / 16 * (c.chain / 2) + (x + y / 32 * c.w) / 2),
        (x + y / 32 * c.w) % 2⟩) ∧
    (y / 32 % 2 = 1 →
      mapPixel c x y = some ⟨(31 - y % 32) % 16 * c.rowSize +
          ((31 - y % 32) / 16 * (c.chain / 2) + (c.w - 1 - x + y / 32 * c.w) / 2),
        (c.w - 1 - x + y / 32 * c.w) % 2⟩)) ∧
  bitPos 0 .red = 7 ∧ bitPos 0 .green = 6 ∧ bitPos 0 .blue = 5 ∧
  bitPos 1 .red = 4 ∧ bitPos 1 .green = 3 ∧ bitPos 1 .blue = 2

/-- R137: the mapper stays inside the plane, its bits are never control positions, and the address of every plane's byte is
inside the framebuffer. -/
def Obligations.MapperStaysInsideThePlane : Prop :=
  ∀ (s : State) (x y : Int) (m : Place), mapPixel s.cfg x y = some m →
    m.off < s.cfg.planeSize ∧ (∀ ch, 2 ≤ bitPos m.grp ch ∧ bitPos m.grp ch ≤ 7) ∧
      ∀ p, p < s.cfg.d → s.backBase + p * s.cfg.planeSize + m.off < s.cfg.memSize

/-- R138: the slots of the in-range pixels, the planes and the channels are exactly the data bits of a buffer half, each
taken exactly once. -/
def Obligations.MapperIsABijection : Prop :=
  ∀ c : Config, c.legal = true →
    (∀ (x y : Int) (p : Nat) (ch : Channel), InRange c x y → p < c.d →
      ∃ o b, slot c x y p ch = some (o, b) ∧ o < c.bufSize ∧ 2 ≤ b ∧ b ≤ 7) ∧
    ∀ o b, o < c.bufSize → 2 ≤ b → b ≤ 7 →
      ∃ x y p ch, (InRange c x y ∧ p < c.d ∧ slot c x y p ch = some (o, b)) ∧
        ∀ x' y' p' ch', InRange c x' y' → p' < c.d → slot c x' y' p' ch' = some (o, b) →
          x' = x ∧ y' = y ∧ p' = p ∧ ch' = ch

/-! ### Invariants -/

/-- The invariant holds at power-on of every configuration, whatever the moves listed. -/
def Obligations.InvHoldsAtPowerOn : Prop :=
  ∀ (c : Config) (moves : List Move), Inv { State.powerOn c with sched := moves }

/-- Every step keeps the invariant: canonical memory, legal registers, the transfer inside the framebuffer, and the rest. -/
def Obligations.InvIsKeptByEveryStep : Prop :=
  ∀ s t : State, Inv s → step s = .next t → Inv t

/-- R63: every step keeps it that the control bits hold once the command in progress has ended: no operation ever corrupts
them for good. -/
def Obligations.ControlBitsSurviveEveryStep : Prop :=
  ∀ s t : State, Inv s → ControlInv s → step s = .next t → ControlInv t

/-- R63: in every state of every run of every configuration, a started block's byte that no pending access touches carries
its control bits; so with no command in progress the whole framebuffer does. -/
def Obligations.ReachableStatesKeepControlBits : Prop :=
  ∀ s : State, Reachable s → s.started = true →
    ∀ h p r i, h < s.cfg.halves → p < s.cfg.d → r < 16 → i < s.cfg.rowSize →
      (∀ x ∈ s.todo, x.addr ≠ s.cfg.addr h p r i) →
      s.fb.read (s.cfg.addr h p r i) &&& 0x03 = if i = s.cfg.rowSize - 1 then 0x03 else 0x00

/-- R61, U14: in a state with the invariant no step ever accesses a byte outside the framebuffer or finds a plane beyond the
depth: the only fault is the halt of a debug build. -/
def Obligations.OnlyTheDebugTrapFaults : Prop :=
  ∀ (s : State) (f : Fault), Inv s → step s = .fault f → f = .debugTrapHalt ∧ s.cfg.debugTrap = true ∧ Faulted s

/-! ### The status port and the colour codec -/

/-- R28, R254 (decision D23): what the status port reads, for a geometry that fits the 16-bit registers (log 12 otherwise). -/
def Obligations.StatusPortReadsTheRegisters : Prop :=
  ∀ s : State, Inv s → s.cfg.legal = true → s.cfg.w < 2 ^ 16 → s.cfg.h < 2 ^ 16 →
    s.status.cfgW.toNat = s.cfg.w ∧ s.status.cfgH.toNat = s.cfg.h ∧ s.status.cfgD.toNat = s.cfg.d ∧
      s.status.cfgDB = s.cfg.db ∧ s.cfgBase.toNat = s.cfg.basePeriod ∧ s.status.initStatus = s.initStatus ∧
      s.status.swapReq = s.swapReq ∧ s.status.resyncReq = s.resyncReq ∧ s.status.started = s.started ∧
      s.status.fault = s.faultReg

/-- R223: the fields of Color444, and that CORE reads its three channels back exactly. -/
def Obligations.Color444KeepsItsChannels : Prop :=
  ∀ r g b : BitVec 4,
    (color444 r g b).extractLsb 15 11 = r ++ r.extractLsb 3 3 ∧
    (color444 r g b).extractLsb 10 5 = g ++ g.extractLsb 3 2 ∧
    (color444 r g b).extractLsb 4 0 = b ++ b.extractLsb 3 3 ∧
    channelValue (color444 r g b) .red = r ∧ channelValue (color444 r g b) .green = g ∧
    channelValue (color444 r g b) .blue = b

/-- R222, R224, R227 (V18, S3): the spec's examples of the codec, and RLSPEC's three points of ColorHSV. -/
def Obligations.ColorCodecExamples : Prop :=
  color333 7 0 0 = 0xF800 ∧ color333 0 7 0 = 0x07E0 ∧ color333 0 0 7 = 0x001F ∧ color333 5 2 6 = 0xB25B ∧
  color888 255 0 0 = 0xF800 ∧ color888 0x12 0x34 0x56 = 0x11AA ∧ color888 255 255 255 = 0xFFFF ∧
  colorHSV 0 255 255 false = 0xF800 ∧ colorHSV 512 255 255 false = 0x07E0 ∧ colorHSV 1024 255 255 false = 0x001F

/-! ### Endless runs -/

/-- R208: in every endless run in which the engine is treated fairly, a transfer in flight ends: at some later move, before
which it stays in flight with its slice unchanged, either XFERDONE is taken or the block is halted by R202. (Fairness is a
premise on the schedule and no part of the step: log 24.) -/
def Obligations.FairEngineCompletesEveryTransfer : Prop :=
  ∀ (moves : Nat → Move) (states : Nat → State), Inv (states 0) → EndlessRun moves states → EngineFair moves states →
    ∀ n, (states n).xferBusy = true → ∃ k, n ≤ k ∧
      (∀ j, n ≤ j → j ≤ k → (states j).xferBusy = true ∧ (states j).xferBase = (states n).xferBase ∧
        (states j).xferLen = (states n).xferLen) ∧
      ((states k).halted = true ∨
        ((∃ w b, moves k = .line w b ∧ decode w = .ok .xferDone) ∧ (states (k + 1)).xferBusy = false))

/-- R7, R180 (log 1, log 24): a step sees the first listed move only, whatever it answers: what a move does to a state does not
depend on the moves listed after it; so every beginning of an endless run is the run of a list of moves. -/
def Obligations.BeginningsOfEndlessRunsAreListedRuns : Prop :=
  (∀ (s t : State) (m : Move) (rest : List Move), Takes m s t →
    step { s with sched := m :: rest } = .next { t with sched := rest }) ∧
  (∀ (s : State) (m : Move) (rest : List Move) (f : Fault), step { s with sched := [m] } = .fault f →
    step { s with sched := m :: rest } = .fault f) ∧
  (∀ (s : State) (m : Move) (rest : List Move) (r : Refusal), step { s with sched := [m] } = .refused r →
    step { s with sched := m :: rest } = .refused r) ∧
  ∀ (moves : Nat → Move) (states : Nat → State) (rest : List Move) (n : Nat), EndlessRun moves states →
    core.run n { states 0 with sched := (List.range n).map moves ++ rest } = .next { states n with sched := rest }
end

