-- ==== Sys2Proof/Laws/Memory.lean ====
section
/-! SUPPORT. The laws of the framebuffer: reading back a write, the canonical form, bulk stores. -/

namespace Sys2Proof.Machine

@[simp] theorem Memory.read_nil (a : Nat) : Memory.read [] a = unlistedByte := rfl

theorem Memory.wf_tail {c : Host.Cell} {m : Memory} (h : Memory.wf (c :: m)) : Memory.wf m :=
  ⟨(List.pairwise_cons.1 h.1).2, fun x hx => h.2 x (List.mem_cons_of_mem _ hx)⟩

/-- A byte below every listed address reads as unlisted. -/
theorem Memory.read_of_lt {m : Memory} {a : Nat} (h : ∀ c ∈ m, a < c.1) : m.read a = unlistedByte := by
  cases m with
  | nil => rfl
  | cons c m => have := h c (by simp); obtain ⟨b, v⟩ := c; simp_all [Memory.read]

/-- The entries of a memory after a write are the new byte or old entries. -/
theorem Memory.mem_write {m : Memory} {a : Nat} {v : Byte} {c : Host.Cell} (h : c ∈ m.write a v) :
    c = (a, v) ∧ v ≠ unlistedByte ∨ c ∈ m := by
  induction m with
  | nil => by_cases hv : v = unlistedByte <;> simp_all [Memory.write]
  | cons e m ih =>
    obtain ⟨b, u⟩ := e
    unfold Memory.write at h
    split_ifs at h <;> simp_all <;> aesop

theorem Memory.write_wf {m : Memory} (a : Nat) (v : Byte) (h : m.wf) : (m.write a v).wf := by
  induction m with
  | nil => by_cases hv : v = unlistedByte <;> simp_all [Memory.write, Memory.wf]
  | cons e m ih =>
    obtain ⟨b, u⟩ := e
    have hm := ih (Memory.wf_tail h)
    have hp := List.pairwise_cons.1 h.1
    unfold Memory.write
    split_ifs with h1 h2 h3 h4
    · exact h
    · refine ⟨List.pairwise_cons.2 ⟨?_, h.1⟩, ?_⟩
      · rintro c hc
        rcases List.mem_cons.1 hc with rfl | hc
        · exact h1
        · exact lt_trans h1 (hp.1 c hc)
      · rintro c hc
        rcases List.mem_cons.1 hc with rfl | hc
        · exact h2
        · exact h.2 c hc
    · exact Memory.wf_tail h
    · subst h3
      refine ⟨List.pairwise_cons.2 ⟨hp.1, hp.2⟩, ?_⟩
      rintro c hc
      rcases List.mem_cons.1 hc with rfl | hc
      · exact h4
      · exact h.2 c (List.mem_cons_of_mem _ hc)
    · refine ⟨List.pairwise_cons.2 ⟨?_, hm.1⟩, ?_⟩
      · rintro c hc
        rcases Memory.mem_write hc with ⟨rfl, _⟩ | hc
        · show b < a
          omega
        · exact hp.1 c hc
      · rintro c hc
        rcases List.mem_cons.1 hc with rfl | hc
        · exact h.2 _ (by simp)
        · exact hm.2 c hc

/-- A read after a write gives the byte written at that address and the old byte at every other. -/
theorem Memory.read_write {m : Memory} (h : m.wf) (a x : Nat) (v : Byte) :
    (m.write a v).read x = if x = a then v else m.read x := by
  induction m with
  | nil =>
    by_cases hv : v = unlistedByte
    · simp [Memory.write, hv]
    · simp only [Memory.write, hv, if_false, Memory.read]
      split_ifs <;> first | rfl | omega
  | cons e m ih =>
    obtain ⟨b, u⟩ := e
    have hm := ih (Memory.wf_tail h)
    have hp := List.pairwise_cons.1 h.1
    unfold Memory.write
    split_ifs with h1 h2 hx hx h3 h4 hx hx hx
    · subst hx; simp [Memory.read, h1, h2]
    · rfl
    · subst hx; simp [Memory.read]
    · simp only [Memory.read]; split_ifs <;> first | rfl | omega
    · subst hx h3 h4; exact Memory.read_of_lt hp.1
    · subst h3 h4
      simp only [Memory.read, hx, if_false]
      split_ifs with hlt
      · exact Memory.read_of_lt fun c hc => lt_trans hlt (hp.1 c hc)
      · rfl
    · subst hx; simp [Memory.read, h3]
    · simp only [Memory.read, h3]; split_ifs <;> first | rfl | omega
    all_goals
      simp only [Memory.read, hm]
      split_ifs <;> first | rfl | omega

theorem Memory.read_write_same {m : Memory} (h : m.wf) (a : Nat) (v : Byte) : (m.write a v).read a = v := by
  simp [Memory.read_write h]

theorem Memory.read_write_other {m : Memory} (h : m.wf) {a x : Nat} (v : Byte) (hx : x ≠ a) :
    (m.write a v).read x = m.read x := by
  simp [Memory.read_write h, hx]

/-- A write below `size` lists nothing at or above it. -/
theorem Memory.write_inside {m : Memory} {size a : Nat} {v : Byte} (h : ∀ c ∈ m, c.1 < size) (ha : a < size) :
    ∀ c ∈ m.write a v, c.1 < size := by
  intro c hc
  rcases Memory.mem_write hc with ⟨rfl, _⟩ | hc
  · exact ha
  · exact h c hc

/-- Two canonical memories that read alike are the same data. -/
theorem Memory.ext_of_read {m n : Memory} (hm : m.wf) (hn : n.wf) (h : ∀ a, m.read a = n.read a) : m = n := by
  induction m generalizing n with
  | nil =>
    cases n with
    | nil => rfl
    | cons e n =>
      obtain ⟨b, u⟩ := e
      have := h b
      simp only [Memory.read, lt_irrefl, if_false, if_true] at this
      exact absurd this.symm (hn.2 (b, u) (by simp))
  | cons d m ih =>
    obtain ⟨a, v⟩ := d
    have hpm := List.pairwise_cons.1 hm.1
    cases n with
    | nil =>
      have := h a
      simp only [Memory.read, lt_irrefl, if_false, if_true] at this
      exact absurd this (hm.2 (a, v) (by simp))
    | cons e n =>
      obtain ⟨b, u⟩ := e
      have hpn := List.pairwise_cons.1 hn.1
      have hvn := hm.2 (a, v) (by simp)
      have hun := hn.2 (b, u) (by simp)
      have hab : a = b := by
        by_contra hne
        rcases Nat.lt_or_gt_of_ne hne with hlt | hlt
        · have := h a
          simp only [Memory.read, lt_irrefl, if_false, if_true, hlt] at this
          exact hvn this
        · have := h b
          simp only [Memory.read, lt_irrefl, if_false, if_true, hlt] at this
          exact hun this.symm
      subst hab
      have hv := h a
      simp only [Memory.read, lt_irrefl, if_false, if_true] at hv
      subst hv
      congr 1
      refine ih (Memory.wf_tail hm) (Memory.wf_tail hn) fun x => ?_
      by_cases hx : a < x
      · have := h x
        have h1 : ¬ x < a := by omega
        have h2 : ¬ x = a := by omega
        simpa [Memory.read, h1, h2] using this
      · rw [Memory.read_of_lt fun c hc => lt_of_le_of_lt (Nat.le_of_not_lt hx) (hpm.1 c hc),
          Memory.read_of_lt fun c hc => lt_of_le_of_lt (Nat.le_of_not_lt hx) (hpn.1 c hc)]

theorem Memory.fillRange_wf {m : Memory} (h : m.wf) (a n : Nat) (v : Byte) : (m.fillRange a n v).wf := by
  induction n generalizing m a with
  | zero => exact h
  | succ n ih => exact ih (Memory.write_wf _ _ h) _

theorem Memory.read_fillRange {m : Memory} (h : m.wf) (a n x : Nat) (v : Byte) :
    (m.fillRange a n v).read x = if a ≤ x ∧ x < a + n then v else m.read x := by
  induction n generalizing m a with
  | zero => simp only [Memory.fillRange]; rw [if_neg (by omega)]
  | succ n ih =>
    simp only [Memory.fillRange]
    rw [ih (Memory.write_wf _ _ h), Memory.read_write h]
    split_ifs <;> first | rfl | omega

theorem Memory.fillRange_inside {m : Memory} {size : Nat} (h : ∀ c ∈ m, c.1 < size) (a n : Nat) (v : Byte)
    (ha : a + n ≤ size) : ∀ c ∈ m.fillRange a n v, c.1 < size := by
  induction n generalizing m a with
  | zero => exact h
  | succ n ih => exact ih (Memory.write_inside h (by omega)) _ (by omega)

/-- One byte stored at each of a list of addresses: wf, content, and what is listed. -/
theorem Memory.foldl_write_wf {m : Memory} (h : m.wf) (l : List Nat) (v : Byte) :
    (l.foldl (fun m a => m.write a v) m).wf := by
  induction l generalizing m with
  | nil => exact h
  | cons a l ih => exact ih (Memory.write_wf _ _ h)

theorem Memory.read_foldl_write {m : Memory} (h : m.wf) (l : List Nat) (v : Byte) (x : Nat) :
    (l.foldl (fun m a => m.write a v) m).read x = if x ∈ l then v else m.read x := by
  induction l generalizing m with
  | nil => simp
  | cons a l ih =>
    rw [List.foldl_cons, ih (Memory.write_wf _ _ h), Memory.read_write h]
    by_cases h1 : x ∈ l <;> by_cases h2 : x = a <;> simp [h1, h2]

theorem Memory.foldl_write_inside {m : Memory} {size : Nat} (h : ∀ c ∈ m, c.1 < size) (l : List Nat) (v : Byte)
    (hl : ∀ a ∈ l, a < size) : ∀ c ∈ l.foldl (fun m a => m.write a v) m, c.1 < size := by
  induction l generalizing m with
  | nil => exact h
  | cons a l ih => exact ih (Memory.write_inside h (hl a (by simp))) fun b hb => hl b (by simp [hb])

end Sys2Proof.Machine
end

