-- ==== Sys2Proof/Laws/State.lean ====
section
/-! SUPPORT. One lemma per field per update of State: what each named update leaves in each field. -/

namespace Sys2Proof.Machine

variable (s : State)

@[simp] theorem State.emit_cfg (e : OutEvent) : (s.emit e).cfg = s.cfg := rfl
@[simp] theorem State.emit_row (e : OutEvent) : (s.emit e).row = s.row := rfl
@[simp] theorem State.emit_plane (e : OutEvent) : (s.emit e).plane = s.plane := rfl
@[simp] theorem State.emit_tickPeriod (e : OutEvent) : (s.emit e).tickPeriod = s.tickPeriod := rfl
@[simp] theorem State.emit_xferBase (e : OutEvent) : (s.emit e).xferBase = s.xferBase := rfl
@[simp] theorem State.emit_xferLen (e : OutEvent) : (s.emit e).xferLen = s.xferLen := rfl
@[simp] theorem State.emit_xferIdx (e : OutEvent) : (s.emit e).xferIdx = s.xferIdx := rfl
@[simp] theorem State.emit_swapReq (e : OutEvent) : (s.emit e).swapReq = s.swapReq := rfl
@[simp] theorem State.emit_resyncReq (e : OutEvent) : (s.emit e).resyncReq = s.resyncReq := rfl
@[simp] theorem State.emit_xferBusy (e : OutEvent) : (s.emit e).xferBusy = s.xferBusy := rfl
@[simp] theorem State.emit_blank (e : OutEvent) : (s.emit e).blank = s.blank := rfl
@[simp] theorem State.emit_started (e : OutEvent) : (s.emit e).started = s.started := rfl
@[simp] theorem State.emit_frontSel (e : OutEvent) : (s.emit e).frontSel = s.frontSel := rfl
@[simp] theorem State.emit_initStatus (e : OutEvent) : (s.emit e).initStatus = s.initStatus := rfl
@[simp] theorem State.emit_faultReg (e : OutEvent) : (s.emit e).faultReg = s.faultReg := rfl
@[simp] theorem State.emit_timerCnt (e : OutEvent) : (s.emit e).timerCnt = s.timerCnt := rfl
@[simp] theorem State.emit_timerRunning (e : OutEvent) : (s.emit e).timerRunning = s.timerRunning := rfl
@[simp] theorem State.emit_fb (e : OutEvent) : (s.emit e).fb = s.fb := rfl
@[simp] theorem State.emit_trace (e : OutEvent) : (s.emit e).trace = s.trace ++ [e] := rfl
@[simp] theorem State.emit_todo (e : OutEvent) : (s.emit e).todo = s.todo := rfl
@[simp] theorem State.emit_sched (e : OutEvent) : (s.emit e).sched = s.sched := rfl
@[simp] theorem State.emit_budget (e : OutEvent) : (s.emit e).budget = s.budget := rfl

@[simp] theorem State.blankPanel_cfg : s.blankPanel.cfg = s.cfg := rfl
@[simp] theorem State.blankPanel_row : s.blankPanel.row = s.row := rfl
@[simp] theorem State.blankPanel_plane : s.blankPanel.plane = s.plane := rfl
@[simp] theorem State.blankPanel_tickPeriod : s.blankPanel.tickPeriod = s.tickPeriod := rfl
@[simp] theorem State.blankPanel_xferBase : s.blankPanel.xferBase = s.xferBase := rfl
@[simp] theorem State.blankPanel_xferLen : s.blankPanel.xferLen = s.xferLen := rfl
@[simp] theorem State.blankPanel_xferIdx : s.blankPanel.xferIdx = s.xferIdx := rfl
@[simp] theorem State.blankPanel_swapReq : s.blankPanel.swapReq = s.swapReq := rfl
@[simp] theorem State.blankPanel_resyncReq : s.blankPanel.resyncReq = s.resyncReq := rfl
@[simp] theorem State.blankPanel_xferBusy : s.blankPanel.xferBusy = s.xferBusy := rfl
@[simp] theorem State.blankPanel_blank : s.blankPanel.blank = true := rfl
@[simp] theorem State.blankPanel_started : s.blankPanel.started = s.started := rfl
@[simp] theorem State.blankPanel_frontSel : s.blankPanel.frontSel = s.frontSel := rfl
@[simp] theorem State.blankPanel_initStatus : s.blankPanel.initStatus = s.initStatus := rfl
@[simp] theorem State.blankPanel_faultReg : s.blankPanel.faultReg = s.faultReg := rfl
@[simp] theorem State.blankPanel_timerCnt : s.blankPanel.timerCnt = s.timerCnt := rfl
@[simp] theorem State.blankPanel_timerRunning : s.blankPanel.timerRunning = s.timerRunning := rfl
@[simp] theorem State.blankPanel_fb : s.blankPanel.fb = s.fb := rfl
@[simp] theorem State.blankPanel_trace : s.blankPanel.trace = s.trace ++ [.blankOn] := rfl
@[simp] theorem State.blankPanel_todo : s.blankPanel.todo = s.todo := rfl
@[simp] theorem State.blankPanel_sched : s.blankPanel.sched = s.sched := rfl
@[simp] theorem State.blankPanel_budget : s.blankPanel.budget = s.budget := rfl

@[simp] theorem State.unblankPanel_cfg : s.unblankPanel.cfg = s.cfg := rfl
@[simp] theorem State.unblankPanel_row : s.unblankPanel.row = s.row := rfl
@[simp] theorem State.unblankPanel_plane : s.unblankPanel.plane = s.plane := rfl
@[simp] theorem State.unblankPanel_tickPeriod : s.unblankPanel.tickPeriod = s.tickPeriod := rfl
@[simp] theorem State.unblankPanel_xferBase : s.unblankPanel.xferBase = s.xferBase := rfl
@[simp] theorem State.unblankPanel_xferLen : s.unblankPanel.xferLen = s.xferLen := rfl
@[simp] theorem State.unblankPanel_xferIdx : s.unblankPanel.xferIdx = s.xferIdx := rfl
@[simp] theorem State.unblankPanel_swapReq : s.unblankPanel.swapReq = s.swapReq := rfl
@[simp] theorem State.unblankPanel_resyncReq : s.unblankPanel.resyncReq = s.resyncReq := rfl
@[simp] theorem State.unblankPanel_xferBusy : s.unblankPanel.xferBusy = s.xferBusy := rfl
@[simp] theorem State.unblankPanel_blank : s.unblankPanel.blank = false := rfl
@[simp] theorem State.unblankPanel_started : s.unblankPanel.started = s.started := rfl
@[simp] theorem State.unblankPanel_frontSel : s.unblankPanel.frontSel = s.frontSel := rfl
@[simp] theorem State.unblankPanel_initStatus : s.unblankPanel.initStatus = s.initStatus := rfl
@[simp] theorem State.unblankPanel_faultReg : s.unblankPanel.faultReg = s.faultReg := rfl
@[simp] theorem State.unblankPanel_timerCnt : s.unblankPanel.timerCnt = s.timerCnt := rfl
@[simp] theorem State.unblankPanel_timerRunning : s.unblankPanel.timerRunning = s.timerRunning := rfl
@[simp] theorem State.unblankPanel_fb : s.unblankPanel.fb = s.fb := rfl
@[simp] theorem State.unblankPanel_trace : s.unblankPanel.trace = s.trace ++ [.blankOff] := rfl
@[simp] theorem State.unblankPanel_todo : s.unblankPanel.todo = s.todo := rfl
@[simp] theorem State.unblankPanel_sched : s.unblankPanel.sched = s.sched := rfl
@[simp] theorem State.unblankPanel_budget : s.unblankPanel.budget = s.budget := rfl

@[simp] theorem State.consumeResync_cfg : s.consumeResync.cfg = s.cfg := rfl
@[simp] theorem State.consumeResync_row : s.consumeResync.row = s.row := rfl
@[simp] theorem State.consumeResync_plane : s.consumeResync.plane = s.plane := rfl
@[simp] theorem State.consumeResync_tickPeriod : s.consumeResync.tickPeriod = s.tickPeriod := rfl
@[simp] theorem State.consumeResync_xferBase : s.consumeResync.xferBase = s.xferBase := rfl
@[simp] theorem State.consumeResync_xferLen : s.consumeResync.xferLen = s.xferLen := rfl
@[simp] theorem State.consumeResync_xferIdx : s.consumeResync.xferIdx = s.xferIdx := rfl
@[simp] theorem State.consumeResync_swapReq : s.consumeResync.swapReq = s.swapReq := rfl
@[simp] theorem State.consumeResync_resyncReq : s.consumeResync.resyncReq = false := rfl
@[simp] theorem State.consumeResync_xferBusy : s.consumeResync.xferBusy = s.xferBusy := rfl
@[simp] theorem State.consumeResync_blank : s.consumeResync.blank = s.blank := rfl
@[simp] theorem State.consumeResync_started : s.consumeResync.started = s.started := rfl
@[simp] theorem State.consumeResync_frontSel : s.consumeResync.frontSel = s.frontSel := rfl
@[simp] theorem State.consumeResync_initStatus : s.consumeResync.initStatus = s.initStatus := rfl
@[simp] theorem State.consumeResync_faultReg : s.consumeResync.faultReg = s.faultReg := rfl
@[simp] theorem State.consumeResync_timerCnt : s.consumeResync.timerCnt = s.timerCnt := rfl
@[simp] theorem State.consumeResync_timerRunning : s.consumeResync.timerRunning = s.timerRunning := rfl
@[simp] theorem State.consumeResync_fb : s.consumeResync.fb = s.fb := rfl
@[simp] theorem State.consumeResync_trace : s.consumeResync.trace = s.trace ++ [.clearPulse] := rfl
@[simp] theorem State.consumeResync_todo : s.consumeResync.todo = s.todo := rfl
@[simp] theorem State.consumeResync_sched : s.consumeResync.sched = s.sched := rfl
@[simp] theorem State.consumeResync_budget : s.consumeResync.budget = s.budget := rfl

@[simp] theorem State.consumeSwap_cfg : s.consumeSwap.cfg = s.cfg := rfl
@[simp] theorem State.consumeSwap_row : s.consumeSwap.row = s.row := rfl
@[simp] theorem State.consumeSwap_plane : s.consumeSwap.plane = s.plane := rfl
@[simp] theorem State.consumeSwap_tickPeriod : s.consumeSwap.tickPeriod = s.tickPeriod := rfl
@[simp] theorem State.consumeSwap_xferBase : s.consumeSwap.xferBase = s.xferBase := rfl
@[simp] theorem State.consumeSwap_xferLen : s.consumeSwap.xferLen = s.xferLen := rfl
@[simp] theorem State.consumeSwap_xferIdx : s.consumeSwap.xferIdx = s.xferIdx := rfl
@[simp] theorem State.consumeSwap_swapReq : s.consumeSwap.swapReq = false := rfl
@[simp] theorem State.consumeSwap_resyncReq : s.consumeSwap.resyncReq = s.resyncReq := rfl
@[simp] theorem State.consumeSwap_xferBusy : s.consumeSwap.xferBusy = s.xferBusy := rfl
@[simp] theorem State.consumeSwap_blank : s.consumeSwap.blank = s.blank := rfl
@[simp] theorem State.consumeSwap_started : s.consumeSwap.started = s.started := rfl
@[simp] theorem State.consumeSwap_frontSel : s.consumeSwap.frontSel = !s.frontSel := rfl
@[simp] theorem State.consumeSwap_initStatus : s.consumeSwap.initStatus = s.initStatus := rfl
@[simp] theorem State.consumeSwap_faultReg : s.consumeSwap.faultReg = s.faultReg := rfl
@[simp] theorem State.consumeSwap_timerCnt : s.consumeSwap.timerCnt = s.timerCnt := rfl
@[simp] theorem State.consumeSwap_timerRunning : s.consumeSwap.timerRunning = s.timerRunning := rfl
@[simp] theorem State.consumeSwap_fb : s.consumeSwap.fb = s.fb := rfl
@[simp] theorem State.consumeSwap_trace : s.consumeSwap.trace = s.trace := rfl
@[simp] theorem State.consumeSwap_todo : s.consumeSwap.todo = s.todo := rfl
@[simp] theorem State.consumeSwap_sched : s.consumeSwap.sched = s.sched := rfl
@[simp] theorem State.consumeSwap_budget : s.consumeSwap.budget = s.budget := rfl

@[simp] theorem State.completeTransfer_cfg : s.completeTransfer.cfg = s.cfg := rfl
@[simp] theorem State.completeTransfer_row : s.completeTransfer.row = s.row := rfl
@[simp] theorem State.completeTransfer_plane : s.completeTransfer.plane = s.plane := rfl
@[simp] theorem State.completeTransfer_tickPeriod : s.completeTransfer.tickPeriod = s.tickPeriod := rfl
@[simp] theorem State.completeTransfer_xferBase : s.completeTransfer.xferBase = s.xferBase := rfl
@[simp] theorem State.completeTransfer_xferLen : s.completeTransfer.xferLen = s.xferLen := rfl
@[simp] theorem State.completeTransfer_xferIdx : s.completeTransfer.xferIdx = s.xferIdx := rfl
@[simp] theorem State.completeTransfer_swapReq : s.completeTransfer.swapReq = s.swapReq := rfl
@[simp] theorem State.completeTransfer_resyncReq : s.completeTransfer.resyncReq = s.resyncReq := rfl
@[simp] theorem State.completeTransfer_xferBusy : s.completeTransfer.xferBusy = false := rfl
@[simp] theorem State.completeTransfer_blank : s.completeTransfer.blank = s.blank := rfl
@[simp] theorem State.completeTransfer_started : s.completeTransfer.started = s.started := rfl
@[simp] theorem State.completeTransfer_frontSel : s.completeTransfer.frontSel = s.frontSel := rfl
@[simp] theorem State.completeTransfer_initStatus : s.completeTransfer.initStatus = s.initStatus := rfl
@[simp] theorem State.completeTransfer_faultReg : s.completeTransfer.faultReg = s.faultReg := rfl
@[simp] theorem State.completeTransfer_timerCnt : s.completeTransfer.timerCnt = s.timerCnt := rfl
@[simp] theorem State.completeTransfer_timerRunning : s.completeTransfer.timerRunning = s.timerRunning := rfl
@[simp] theorem State.completeTransfer_fb : s.completeTransfer.fb = s.fb := rfl
@[simp] theorem State.completeTransfer_trace : s.completeTransfer.trace = s.trace ++ [.xferDone] := rfl
@[simp] theorem State.completeTransfer_todo : s.completeTransfer.todo = s.todo := rfl
@[simp] theorem State.completeTransfer_sched : s.completeTransfer.sched = s.sched := rfl
@[simp] theorem State.completeTransfer_budget : s.completeTransfer.budget = s.budget := rfl

@[simp] theorem State.requestResync_cfg : s.requestResync.cfg = s.cfg := rfl
@[simp] theorem State.requestResync_row : s.requestResync.row = s.row := rfl
@[simp] theorem State.requestResync_plane : s.requestResync.plane = s.plane := rfl
@[simp] theorem State.requestResync_tickPeriod : s.requestResync.tickPeriod = s.tickPeriod := rfl
@[simp] theorem State.requestResync_xferBase : s.requestResync.xferBase = s.xferBase := rfl
@[simp] theorem State.requestResync_xferLen : s.requestResync.xferLen = s.xferLen := rfl
@[simp] theorem State.requestResync_xferIdx : s.requestResync.xferIdx = s.xferIdx := rfl
@[simp] theorem State.requestResync_swapReq : s.requestResync.swapReq = s.swapReq := rfl
@[simp] theorem State.requestResync_resyncReq : s.requestResync.resyncReq = true := rfl
@[simp] theorem State.requestResync_xferBusy : s.requestResync.xferBusy = s.xferBusy := rfl
@[simp] theorem State.requestResync_blank : s.requestResync.blank = s.blank := rfl
@[simp] theorem State.requestResync_started : s.requestResync.started = s.started := rfl
@[simp] theorem State.requestResync_frontSel : s.requestResync.frontSel = s.frontSel := rfl
@[simp] theorem State.requestResync_initStatus : s.requestResync.initStatus = s.initStatus := rfl
@[simp] theorem State.requestResync_faultReg : s.requestResync.faultReg = s.faultReg := rfl
@[simp] theorem State.requestResync_timerCnt : s.requestResync.timerCnt = s.timerCnt := rfl
@[simp] theorem State.requestResync_timerRunning : s.requestResync.timerRunning = s.timerRunning := rfl
@[simp] theorem State.requestResync_fb : s.requestResync.fb = s.fb := rfl
@[simp] theorem State.requestResync_trace : s.requestResync.trace = s.trace := rfl
@[simp] theorem State.requestResync_todo : s.requestResync.todo = s.todo := rfl
@[simp] theorem State.requestResync_sched : s.requestResync.sched = s.sched := rfl
@[simp] theorem State.requestResync_budget : s.requestResync.budget = s.budget := rfl

@[simp] theorem State.requestSwap_cfg : s.requestSwap.cfg = s.cfg := by
  unfold State.requestSwap; split <;> simp_all
@[simp] theorem State.requestSwap_row : s.requestSwap.row = s.row := by
  unfold State.requestSwap; split <;> simp_all
@[simp] theorem State.requestSwap_plane : s.requestSwap.plane = s.plane := by
  unfold State.requestSwap; split <;> simp_all
@[simp] theorem State.requestSwap_tickPeriod : s.requestSwap.tickPeriod = s.tickPeriod := by
  unfold State.requestSwap; split <;> simp_all
@[simp] theorem State.requestSwap_xferBase : s.requestSwap.xferBase = s.xferBase := by
  unfold State.requestSwap; split <;> simp_all
@[simp] theorem State.requestSwap_xferLen : s.requestSwap.xferLen = s.xferLen := by
  unfold State.requestSwap; split <;> simp_all
@[simp] theorem State.requestSwap_xferIdx : s.requestSwap.xferIdx = s.xferIdx := by
  unfold State.requestSwap; split <;> simp_all
@[simp] theorem State.requestSwap_swapReq : s.requestSwap.swapReq = (s.swapReq || s.cfg.db) := by
  unfold State.requestSwap; split <;> simp_all
@[simp] theorem State.requestSwap_resyncReq : s.requestSwap.resyncReq = s.resyncReq := by
  unfold State.requestSwap; split <;> simp_all
@[simp] theorem State.requestSwap_xferBusy : s.requestSwap.xferBusy = s.xferBusy := by
  unfold State.requestSwap; split <;> simp_all
@[simp] theorem State.requestSwap_blank : s.requestSwap.blank = s.blank := by
  unfold State.requestSwap; split <;> simp_all
@[simp] theorem State.requestSwap_started : s.requestSwap.started = s.started := by
  unfold State.requestSwap; split <;> simp_all
@[simp] theorem State.requestSwap_frontSel : s.requestSwap.frontSel = s.frontSel := by
  unfold State.requestSwap; split <;> simp_all
@[simp] theorem State.requestSwap_initStatus : s.requestSwap.initStatus = s.initStatus := by
  unfold State.requestSwap; split <;> simp_all
@[simp] theorem State.requestSwap_faultReg : s.requestSwap.faultReg = s.faultReg := by
  unfold State.requestSwap; split <;> simp_all
@[simp] theorem State.requestSwap_timerCnt : s.requestSwap.timerCnt = s.timerCnt := by
  unfold State.requestSwap; split <;> simp_all
@[simp] theorem State.requestSwap_timerRunning : s.requestSwap.timerRunning = s.timerRunning := by
  unfold State.requestSwap; split <;> simp_all
@[simp] theorem State.requestSwap_fb : s.requestSwap.fb = s.fb := by
  unfold State.requestSwap; split <;> simp_all
@[simp] theorem State.requestSwap_trace : s.requestSwap.trace = s.trace := by
  unfold State.requestSwap; split <;> simp_all
@[simp] theorem State.requestSwap_todo : s.requestSwap.todo = s.todo := by
  unfold State.requestSwap; split <;> simp_all
@[simp] theorem State.requestSwap_sched : s.requestSwap.sched = s.sched := by
  unfold State.requestSwap; split <;> simp_all
@[simp] theorem State.requestSwap_budget : s.requestSwap.budget = s.budget := by
  unfold State.requestSwap; split <;> simp_all

@[simp] theorem State.programPeriod_cfg : s.programPeriod.cfg = s.cfg := rfl
@[simp] theorem State.programPeriod_row : s.programPeriod.row = s.row := rfl
@[simp] theorem State.programPeriod_plane : s.programPeriod.plane = s.plane := rfl
@[simp] theorem State.programPeriod_tickPeriod : s.programPeriod.tickPeriod = BitVec.ofNat 32 (s.cfg.period s.plane.toNat) := rfl
@[simp] theorem State.programPeriod_xferBase : s.programPeriod.xferBase = s.xferBase := rfl
@[simp] theorem State.programPeriod_xferLen : s.programPeriod.xferLen = s.xferLen := rfl
@[simp] theorem State.programPeriod_xferIdx : s.programPeriod.xferIdx = s.xferIdx := rfl
@[simp] theorem State.programPeriod_swapReq : s.programPeriod.swapReq = s.swapReq := rfl
@[simp] theorem State.programPeriod_resyncReq : s.programPeriod.resyncReq = s.resyncReq := rfl
@[simp] theorem State.programPeriod_xferBusy : s.programPeriod.xferBusy = s.xferBusy := rfl
@[simp] theorem State.programPeriod_blank : s.programPeriod.blank = s.blank := rfl
@[simp] theorem State.programPeriod_started : s.programPeriod.started = s.started := rfl
@[simp] theorem State.programPeriod_frontSel : s.programPeriod.frontSel = s.frontSel := rfl
@[simp] theorem State.programPeriod_initStatus : s.programPeriod.initStatus = s.initStatus := rfl
@[simp] theorem State.programPeriod_faultReg : s.programPeriod.faultReg = s.faultReg := rfl
@[simp] theorem State.programPeriod_timerCnt : s.programPeriod.timerCnt = s.timerCnt := rfl
@[simp] theorem State.programPeriod_timerRunning : s.programPeriod.timerRunning = s.timerRunning := rfl
@[simp] theorem State.programPeriod_fb : s.programPeriod.fb = s.fb := rfl
@[simp] theorem State.programPeriod_trace : s.programPeriod.trace = s.trace ++ [.setPeriod (BitVec.ofNat 32 (s.cfg.period s.plane.toNat))] := rfl
@[simp] theorem State.programPeriod_todo : s.programPeriod.todo = s.todo := rfl
@[simp] theorem State.programPeriod_sched : s.programPeriod.sched = s.sched := rfl
@[simp] theorem State.programPeriod_budget : s.programPeriod.budget = s.budget := rfl

@[simp] theorem State.reloadTimer_cfg : s.reloadTimer.cfg = s.cfg := rfl
@[simp] theorem State.reloadTimer_row : s.reloadTimer.row = s.row := rfl
@[simp] theorem State.reloadTimer_plane : s.reloadTimer.plane = s.plane := rfl
@[simp] theorem State.reloadTimer_tickPeriod : s.reloadTimer.tickPeriod = s.tickPeriod := rfl
@[simp] theorem State.reloadTimer_xferBase : s.reloadTimer.xferBase = s.xferBase := rfl
@[simp] theorem State.reloadTimer_xferLen : s.reloadTimer.xferLen = s.xferLen := rfl
@[simp] theorem State.reloadTimer_xferIdx : s.reloadTimer.xferIdx = s.xferIdx := rfl
@[simp] theorem State.reloadTimer_swapReq : s.reloadTimer.swapReq = s.swapReq := rfl
@[simp] theorem State.reloadTimer_resyncReq : s.reloadTimer.resyncReq = s.resyncReq := rfl
@[simp] theorem State.reloadTimer_xferBusy : s.reloadTimer.xferBusy = s.xferBusy := rfl
@[simp] theorem State.reloadTimer_blank : s.reloadTimer.blank = s.blank := rfl
@[simp] theorem State.reloadTimer_started : s.reloadTimer.started = s.started := rfl
@[simp] theorem State.reloadTimer_frontSel : s.reloadTimer.frontSel = s.frontSel := rfl
@[simp] theorem State.reloadTimer_initStatus : s.reloadTimer.initStatus = s.initStatus := rfl
@[simp] theorem State.reloadTimer_faultReg : s.reloadTimer.faultReg = s.faultReg := rfl
@[simp] theorem State.reloadTimer_timerCnt : s.reloadTimer.timerCnt = s.tickPeriod := rfl
@[simp] theorem State.reloadTimer_timerRunning : s.reloadTimer.timerRunning = s.timerRunning := rfl
@[simp] theorem State.reloadTimer_fb : s.reloadTimer.fb = s.fb := rfl
@[simp] theorem State.reloadTimer_trace : s.reloadTimer.trace = s.trace := rfl
@[simp] theorem State.reloadTimer_todo : s.reloadTimer.todo = s.todo := rfl
@[simp] theorem State.reloadTimer_sched : s.reloadTimer.sched = s.sched := rfl
@[simp] theorem State.reloadTimer_budget : s.reloadTimer.budget = s.budget := rfl

@[simp] theorem State.boundaryAction_cfg : s.boundaryAction.cfg = s.cfg := by
  unfold State.boundaryAction; split <;> (try split) <;> (try split) <;> simp_all
@[simp] theorem State.boundaryAction_row : s.boundaryAction.row = s.row := by
  unfold State.boundaryAction; split <;> (try split) <;> (try split) <;> simp_all
@[simp] theorem State.boundaryAction_plane : s.boundaryAction.plane = s.plane := by
  unfold State.boundaryAction; split <;> (try split) <;> (try split) <;> simp_all
@[simp] theorem State.boundaryAction_tickPeriod : s.boundaryAction.tickPeriod = s.tickPeriod := by
  unfold State.boundaryAction; split <;> (try split) <;> (try split) <;> simp_all
@[simp] theorem State.boundaryAction_xferBase : s.boundaryAction.xferBase = s.xferBase := by
  unfold State.boundaryAction; split <;> (try split) <;> (try split) <;> simp_all
@[simp] theorem State.boundaryAction_xferLen : s.boundaryAction.xferLen = s.xferLen := by
  unfold State.boundaryAction; split <;> (try split) <;> (try split) <;> simp_all
@[simp] theorem State.boundaryAction_xferIdx : s.boundaryAction.xferIdx = s.xferIdx := by
  unfold State.boundaryAction; split <;> (try split) <;> (try split) <;> simp_all
@[simp] theorem State.boundaryAction_swapReq : s.boundaryAction.swapReq = (s.swapReq && !(s.atBoundary && !s.resyncReq && s.cfg.db)) := by
  unfold State.boundaryAction; split <;> (try split) <;> (try split) <;> simp_all
@[simp] theorem State.boundaryAction_resyncReq : s.boundaryAction.resyncReq = (s.resyncReq && !s.atBoundary) := by
  unfold State.boundaryAction; split <;> (try split) <;> (try split) <;> simp_all
@[simp] theorem State.boundaryAction_xferBusy : s.boundaryAction.xferBusy = s.xferBusy := by
  unfold State.boundaryAction; split <;> (try split) <;> (try split) <;> simp_all
@[simp] theorem State.boundaryAction_blank : s.boundaryAction.blank = s.blank := by
  unfold State.boundaryAction; split <;> (try split) <;> (try split) <;> simp_all
@[simp] theorem State.boundaryAction_started : s.boundaryAction.started = s.started := by
  unfold State.boundaryAction; split <;> (try split) <;> (try split) <;> simp_all
@[simp] theorem State.boundaryAction_frontSel : s.boundaryAction.frontSel = (if s.atBoundary && !s.resyncReq && s.swapReq && s.cfg.db then !s.frontSel else s.frontSel) := by
  unfold State.boundaryAction; split <;> (try split) <;> (try split) <;> simp_all
@[simp] theorem State.boundaryAction_initStatus : s.boundaryAction.initStatus = s.initStatus := by
  unfold State.boundaryAction; split <;> (try split) <;> (try split) <;> simp_all
@[simp] theorem State.boundaryAction_faultReg : s.boundaryAction.faultReg = s.faultReg := by
  unfold State.boundaryAction; split <;> (try split) <;> (try split) <;> simp_all
@[simp] theorem State.boundaryAction_timerCnt : s.boundaryAction.timerCnt = s.timerCnt := by
  unfold State.boundaryAction; split <;> (try split) <;> (try split) <;> simp_all
@[simp] theorem State.boundaryAction_timerRunning : s.boundaryAction.timerRunning = s.timerRunning := by
  unfold State.boundaryAction; split <;> (try split) <;> (try split) <;> simp_all
@[simp] theorem State.boundaryAction_fb : s.boundaryAction.fb = s.fb := by
  unfold State.boundaryAction; split <;> (try split) <;> (try split) <;> simp_all
@[simp] theorem State.boundaryAction_trace : s.boundaryAction.trace = (if s.atBoundary && s.resyncReq then s.trace ++ [.clearPulse] else s.trace) := by
  unfold State.boundaryAction; split <;> (try split) <;> (try split) <;> simp_all
@[simp] theorem State.boundaryAction_todo : s.boundaryAction.todo = s.todo := by
  unfold State.boundaryAction; split <;> (try split) <;> (try split) <;> simp_all
@[simp] theorem State.boundaryAction_sched : s.boundaryAction.sched = s.sched := by
  unfold State.boundaryAction; split <;> (try split) <;> (try split) <;> simp_all
@[simp] theorem State.boundaryAction_budget : s.boundaryAction.budget = s.budget := by
  unfold State.boundaryAction; split <;> (try split) <;> (try split) <;> simp_all

@[simp] theorem State.advance_cfg : s.advance.cfg = s.cfg := by
  unfold State.advance; split <;> rfl
@[simp] theorem State.advance_row : s.advance.row = (if s.row = 15 then 0 else s.row + 1) := by
  unfold State.advance; split <;> rfl
@[simp] theorem State.advance_plane : s.advance.plane = (if s.row = 15 then (if s.plane.toNat = s.cfg.d - 1 then 0 else s.plane + 1) else s.plane) := by
  unfold State.advance; split <;> rfl
@[simp] theorem State.advance_tickPeriod : s.advance.tickPeriod = s.tickPeriod := by
  unfold State.advance; split <;> rfl
@[simp] theorem State.advance_xferBase : s.advance.xferBase = s.xferBase := by
  unfold State.advance; split <;> rfl
@[simp] theorem State.advance_xferLen : s.advance.xferLen = s.xferLen := by
  unfold State.advance; split <;> rfl
@[simp] theorem State.advance_xferIdx : s.advance.xferIdx = s.xferIdx := by
  unfold State.advance; split <;> rfl
@[simp] theorem State.advance_swapReq : s.advance.swapReq = s.swapReq := by
  unfold State.advance; split <;> rfl
@[simp] theorem State.advance_resyncReq : s.advance.resyncReq = s.resyncReq := by
  unfold State.advance; split <;> rfl
@[simp] theorem State.advance_xferBusy : s.advance.xferBusy = s.xferBusy := by
  unfold State.advance; split <;> rfl
@[simp] theorem State.advance_blank : s.advance.blank = s.blank := by
  unfold State.advance; split <;> rfl
@[simp] theorem State.advance_started : s.advance.started = s.started := by
  unfold State.advance; split <;> rfl
@[simp] theorem State.advance_frontSel : s.advance.frontSel = s.frontSel := by
  unfold State.advance; split <;> rfl
@[simp] theorem State.advance_initStatus : s.advance.initStatus = s.initStatus := by
  unfold State.advance; split <;> rfl
@[simp] theorem State.advance_faultReg : s.advance.faultReg = s.faultReg := by
  unfold State.advance; split <;> rfl
@[simp] theorem State.advance_timerCnt : s.advance.timerCnt = s.timerCnt := by
  unfold State.advance; split <;> rfl
@[simp] theorem State.advance_timerRunning : s.advance.timerRunning = s.timerRunning := by
  unfold State.advance; split <;> rfl
@[simp] theorem State.advance_fb : s.advance.fb = s.fb := by
  unfold State.advance; split <;> rfl
@[simp] theorem State.advance_trace : s.advance.trace = s.trace := by
  unfold State.advance; split <;> rfl
@[simp] theorem State.advance_todo : s.advance.todo = s.todo := by
  unfold State.advance; split <;> rfl
@[simp] theorem State.advance_sched : s.advance.sched = s.sched := by
  unfold State.advance; split <;> rfl
@[simp] theorem State.advance_budget : s.advance.budget = s.budget := by
  unfold State.advance; split <;> rfl

@[simp] theorem State.beginTransfer_cfg (a n : Nat) : (s.beginTransfer a n).cfg = s.cfg := by
  unfold State.beginTransfer; split <;> simp_all [State.raise]
@[simp] theorem State.beginTransfer_row (a n : Nat) : (s.beginTransfer a n).row = s.row := by
  unfold State.beginTransfer; split <;> simp_all [State.raise]
@[simp] theorem State.beginTransfer_plane (a n : Nat) : (s.beginTransfer a n).plane = s.plane := by
  unfold State.beginTransfer; split <;> simp_all [State.raise]
@[simp] theorem State.beginTransfer_tickPeriod (a n : Nat) : (s.beginTransfer a n).tickPeriod = s.tickPeriod := by
  unfold State.beginTransfer; split <;> simp_all [State.raise]
@[simp] theorem State.beginTransfer_xferBase (a n : Nat) : (s.beginTransfer a n).xferBase = (if s.xferBusy then s.xferBase else BitVec.ofNat 32 a) := by
  unfold State.beginTransfer; split <;> simp_all [State.raise]
@[simp] theorem State.beginTransfer_xferLen (a n : Nat) : (s.beginTransfer a n).xferLen = (if s.xferBusy then s.xferLen else BitVec.ofNat 32 n) := by
  unfold State.beginTransfer; split <;> simp_all [State.raise]
@[simp] theorem State.beginTransfer_xferIdx (a n : Nat) : (s.beginTransfer a n).xferIdx = (if s.xferBusy then s.xferIdx else 0) := by
  unfold State.beginTransfer; split <;> simp_all [State.raise]
@[simp] theorem State.beginTransfer_swapReq (a n : Nat) : (s.beginTransfer a n).swapReq = s.swapReq := by
  unfold State.beginTransfer; split <;> simp_all [State.raise]
@[simp] theorem State.beginTransfer_resyncReq (a n : Nat) : (s.beginTransfer a n).resyncReq = s.resyncReq := by
  unfold State.beginTransfer; split <;> simp_all [State.raise]
@[simp] theorem State.beginTransfer_xferBusy (a n : Nat) : (s.beginTransfer a n).xferBusy = true := by
  unfold State.beginTransfer; split <;> simp_all [State.raise]
@[simp] theorem State.beginTransfer_blank (a n : Nat) : (s.beginTransfer a n).blank = s.blank := by
  unfold State.beginTransfer; split <;> simp_all [State.raise]
@[simp] theorem State.beginTransfer_started (a n : Nat) : (s.beginTransfer a n).started = s.started := by
  unfold State.beginTransfer; split <;> simp_all [State.raise]
@[simp] theorem State.beginTransfer_frontSel (a n : Nat) : (s.beginTransfer a n).frontSel = s.frontSel := by
  unfold State.beginTransfer; split <;> simp_all [State.raise]
@[simp] theorem State.beginTransfer_initStatus (a n : Nat) : (s.beginTransfer a n).initStatus = s.initStatus := by
  unfold State.beginTransfer; split <;> simp_all [State.raise]
@[simp] theorem State.beginTransfer_faultReg (a n : Nat) : (s.beginTransfer a n).faultReg = (if s.xferBusy then s.faultReg ||| 0x01 else s.faultReg) := by
  unfold State.beginTransfer; split <;> simp_all [State.raise]
@[simp] theorem State.beginTransfer_timerCnt (a n : Nat) : (s.beginTransfer a n).timerCnt = s.timerCnt := by
  unfold State.beginTransfer; split <;> simp_all [State.raise]
@[simp] theorem State.beginTransfer_timerRunning (a n : Nat) : (s.beginTransfer a n).timerRunning = s.timerRunning := by
  unfold State.beginTransfer; split <;> simp_all [State.raise]
@[simp] theorem State.beginTransfer_fb (a n : Nat) : (s.beginTransfer a n).fb = s.fb := by
  unfold State.beginTransfer; split <;> simp_all [State.raise]
@[simp] theorem State.beginTransfer_trace (a n : Nat) : (s.beginTransfer a n).trace = s.trace ++ [if s.xferBusy then .xferDropped a n else .xferStart a n] := by
  unfold State.beginTransfer; split <;> simp_all [State.raise]
@[simp] theorem State.beginTransfer_todo (a n : Nat) : (s.beginTransfer a n).todo = s.todo := by
  unfold State.beginTransfer; split <;> simp_all [State.raise]
@[simp] theorem State.beginTransfer_sched (a n : Nat) : (s.beginTransfer a n).sched = s.sched := by
  unfold State.beginTransfer; split <;> simp_all [State.raise]
@[simp] theorem State.beginTransfer_budget (a n : Nat) : (s.beginTransfer a n).budget = s.budget := by
  unfold State.beginTransfer; split <;> simp_all [State.raise]

@[simp] theorem State.requestSlice_cfg : s.requestSlice.cfg = s.cfg := by
  simp [State.requestSlice]
@[simp] theorem State.requestSlice_row : s.requestSlice.row = s.row := by
  simp [State.requestSlice]
@[simp] theorem State.requestSlice_plane : s.requestSlice.plane = s.plane := by
  simp [State.requestSlice]
@[simp] theorem State.requestSlice_tickPeriod : s.requestSlice.tickPeriod = s.tickPeriod := by
  simp [State.requestSlice]
@[simp] theorem State.requestSlice_xferBase : s.requestSlice.xferBase = (if s.xferBusy then s.xferBase else BitVec.ofNat 32 s.sliceAddr) := by
  simp [State.requestSlice]
@[simp] theorem State.requestSlice_xferLen : s.requestSlice.xferLen = (if s.xferBusy then s.xferLen else BitVec.ofNat 32 s.cfg.rowSize) := by
  simp [State.requestSlice]
@[simp] theorem State.requestSlice_xferIdx : s.requestSlice.xferIdx = (if s.xferBusy then s.xferIdx else 0) := by
  simp [State.requestSlice]
@[simp] theorem State.requestSlice_swapReq : s.requestSlice.swapReq = s.swapReq := by
  simp [State.requestSlice]
@[simp] theorem State.requestSlice_resyncReq : s.requestSlice.resyncReq = s.resyncReq := by
  simp [State.requestSlice]
@[simp] theorem State.requestSlice_xferBusy : s.requestSlice.xferBusy = true := by
  simp [State.requestSlice]
@[simp] theorem State.requestSlice_blank : s.requestSlice.blank = s.blank := by
  simp [State.requestSlice]
@[simp] theorem State.requestSlice_started : s.requestSlice.started = s.started := by
  simp [State.requestSlice]
@[simp] theorem State.requestSlice_frontSel : s.requestSlice.frontSel = s.frontSel := by
  simp [State.requestSlice]
@[simp] theorem State.requestSlice_initStatus : s.requestSlice.initStatus = s.initStatus := by
  simp [State.requestSlice]
@[simp] theorem State.requestSlice_faultReg : s.requestSlice.faultReg = (if s.xferBusy then s.faultReg ||| 0x01 else s.faultReg) := by
  simp [State.requestSlice]
@[simp] theorem State.requestSlice_timerCnt : s.requestSlice.timerCnt = s.timerCnt := by
  simp [State.requestSlice]
@[simp] theorem State.requestSlice_timerRunning : s.requestSlice.timerRunning = s.timerRunning := by
  simp [State.requestSlice]
@[simp] theorem State.requestSlice_fb : s.requestSlice.fb = s.fb := by
  simp [State.requestSlice]
@[simp] theorem State.requestSlice_trace : s.requestSlice.trace = s.trace ++ [if s.xferBusy then .xferDropped s.sliceAddr s.cfg.rowSize else .xferStart s.sliceAddr s.cfg.rowSize] := by
  simp [State.requestSlice]
@[simp] theorem State.requestSlice_todo : s.requestSlice.todo = s.todo := by
  simp [State.requestSlice]
@[simp] theorem State.requestSlice_sched : s.requestSlice.sched = s.sched := by
  simp [State.requestSlice]
@[simp] theorem State.requestSlice_budget : s.requestSlice.budget = s.budget := by
  simp [State.requestSlice]

@[simp] theorem State.blankPanel_atBoundary : s.blankPanel.atBoundary = s.atBoundary := rfl

@[simp] theorem State.sliceAddr_of_tick_steps :
    s.blankPanel.boundaryAction.programPeriod.advance.sliceAddr = s.boundaryAction.advance.sliceAddr := by
  simp [State.sliceAddr, State.frontBase, State.frontHalf]

@[simp] theorem State.tick_cfg : s.tick.cfg = s.cfg := by
  simp [State.tick]
@[simp] theorem State.tick_row : s.tick.row = (if s.row = 15 then 0 else s.row + 1) := by
  simp [State.tick]
@[simp] theorem State.tick_plane : s.tick.plane = (if s.row = 15 then (if s.plane.toNat = s.cfg.d - 1 then 0 else s.plane + 1) else s.plane) := by
  simp [State.tick]
@[simp] theorem State.tick_tickPeriod : s.tick.tickPeriod = BitVec.ofNat 32 (s.cfg.period s.plane.toNat) := by
  simp [State.tick]
@[simp] theorem State.tick_xferBase : s.tick.xferBase = (if s.xferBusy then s.xferBase else BitVec.ofNat 32 s.boundaryAction.advance.sliceAddr) := by
  simp [State.tick]
@[simp] theorem State.tick_xferLen : s.tick.xferLen = (if s.xferBusy then s.xferLen else BitVec.ofNat 32 s.cfg.rowSize) := by
  simp [State.tick]
@[simp] theorem State.tick_xferIdx : s.tick.xferIdx = (if s.xferBusy then s.xferIdx else 0) := by
  simp [State.tick]
@[simp] theorem State.tick_swapReq : s.tick.swapReq = (s.swapReq && !(s.atBoundary && !s.resyncReq && s.cfg.db)) := by
  simp [State.tick]
@[simp] theorem State.tick_resyncReq : s.tick.resyncReq = (s.resyncReq && !s.atBoundary) := by
  simp [State.tick]
@[simp] theorem State.tick_xferBusy : s.tick.xferBusy = true := by
  simp [State.tick]
@[simp] theorem State.tick_blank : s.tick.blank = false := by
  simp [State.tick]
@[simp] theorem State.tick_started : s.tick.started = s.started := by
  simp [State.tick]
@[simp] theorem State.tick_frontSel : s.tick.frontSel = (if s.atBoundary && !s.resyncReq && s.swapReq && s.cfg.db then !s.frontSel else s.frontSel) := by
  simp [State.tick]
@[simp] theorem State.tick_initStatus : s.tick.initStatus = s.initStatus := by
  simp [State.tick]
@[simp] theorem State.tick_faultReg : s.tick.faultReg = (if s.xferBusy then s.faultReg ||| 0x01 else s.faultReg) := by
  simp [State.tick]
@[simp] theorem State.tick_timerCnt : s.tick.timerCnt = BitVec.ofNat 32 (s.cfg.period s.plane.toNat) := by
  simp [State.tick]
@[simp] theorem State.tick_timerRunning : s.tick.timerRunning = s.timerRunning := by
  simp [State.tick]
@[simp] theorem State.tick_fb : s.tick.fb = s.fb := by
  simp [State.tick]
@[simp] theorem State.tick_trace : s.tick.trace = s.trace ++ ([.blankOn] ++ (if s.atBoundary && s.resyncReq then [.clearPulse] else []) ++
      [.setPeriod (BitVec.ofNat 32 (s.cfg.period s.plane.toNat)),
        if s.xferBusy then .xferDropped s.boundaryAction.advance.sliceAddr s.cfg.rowSize else .xferStart s.boundaryAction.advance.sliceAddr s.cfg.rowSize, .blankOff]) := by
  simp [State.tick]; split <;> simp
@[simp] theorem State.tick_todo : s.tick.todo = s.todo := by
  simp [State.tick]
@[simp] theorem State.tick_sched : s.tick.sched = s.sched := by
  simp [State.tick]
@[simp] theorem State.tick_budget : s.tick.budget = s.budget := by
  simp [State.tick]

/-- Two states with equal fields are equal. -/
theorem State.eq_of_fields {a b : State} (h0 : a.cfg = b.cfg) (h1 : a.row = b.row) (h2 : a.plane = b.plane)
    (h3 : a.tickPeriod = b.tickPeriod) (h4 : a.xferBase = b.xferBase) (h5 : a.xferLen = b.xferLen)
    (h6 : a.xferIdx = b.xferIdx) (h7 : a.swapReq = b.swapReq) (h8 : a.resyncReq = b.resyncReq)
    (h9 : a.xferBusy = b.xferBusy) (h10 : a.blank = b.blank) (h11 : a.started = b.started)
    (h12 : a.frontSel = b.frontSel) (h13 : a.initStatus = b.initStatus) (h14 : a.faultReg = b.faultReg)
    (h15 : a.timerCnt = b.timerCnt) (h16 : a.timerRunning = b.timerRunning) (h17 : a.fb = b.fb)
    (h18 : a.trace = b.trace) (h19 : a.todo = b.todo) (h20 : a.sched = b.sched) (h21 : a.budget = b.budget) : a = b := by
  obtain ⟨⟩ := a; obtain ⟨⟩ := b; simp_all

/-- A tick does not depend on what the timer holds: it reloads it (R252). -/
theorem State.tick_of_timerCnt (c : Reg32) : ({ s with timerCnt := c } : State).tick = s.tick := by
  have hb : ({ s with timerCnt := c } : State).atBoundary = s.atBoundary := rfl
  have ha : ({ s with timerCnt := c } : State).boundaryAction.advance.sliceAddr = s.boundaryAction.advance.sliceAddr := by
    simp [State.sliceAddr, State.frontBase, State.frontHalf, hb]
  apply State.eq_of_fields <;> simp [hb, ha]

end Sys2Proof.Machine
end

