-- ==== Sys2Proof/Laws/Accesses.lean ====
section
/-! SUPPORT. The laws of access sequences (42_framebuffer_ops.md R151, R154): what the next accesses of a sequence do, that
they keep the canonical form, and that stopping part-way changes nothing of the final framebuffer. -/

namespace Sys2Proof.Machine

@[simp] theorem accessCount_nil : accessCount [] = 0 := rfl

@[simp] theorem accessCount_append (l r : List Access) : accessCount (l ++ r) = accessCount l + accessCount r := by
  induction l with
  | nil => simp
  | cons x l ih => cases x <;> simp [accessCount, ih] <;> omega

theorem accessCount_eq_zero {l : List Access} : accessCount l = 0 ↔ l = [] := by
  cases l with
  | nil => simp
  | cons x l => cases x <;> simp [accessCount]

/-- A sequence of read-modify-writes makes two accesses for each. -/
theorem accessCount_modify {α : Type} (l : List α) (a : α → Nat) (keep bits : α → Byte) :
    accessCount (l.map fun x => .modify (a x) (keep x) (bits x)) = 2 * l.length := by
  induction l with
  | nil => rfl
  | cons x l ih => simp [accessCount, ih]; omega

/-- A sequence of stores makes one access for each. -/
theorem accessCount_store {α : Type} (l : List α) (a : α → Nat) (v : α → Byte) :
    accessCount (l.map fun x => .store (a x) (v x)) = l.length := by
  induction l with
  | nil => rfl
  | cons x l ih => simp [accessCount, ih]

theorem accessCount_flatMap {α : Type} (l : List α) (f : α → List Access) (n : Nat)
    (h : ∀ x ∈ l, accessCount (f x) = n) : accessCount (l.flatMap f) = l.length * n := by
  induction l with
  | nil => simp
  | cons x l ih =>
    rw [List.flatMap_cons, accessCount_append, h x (by simp), ih fun y hy => h y (by simp [hy]), List.length_cons]
    ring

/-- The number of accesses of an in-range SETPIXEL: `2 * D` (R151). -/
theorem accessCount_setPixel (c : Config) (base : Nat) (m : Place) (color : Color) :
    accessCount (setPixelAccesses c base m color) = 2 * c.d := by
  have h := accessCount_modify (List.range c.d) (fun p => base + p * c.planeSize + m.off) (fun _ => keepMask m.grp)
    (fun p => pixelBits color m.grp p)
  rw [List.length_range] at h
  exact h

/-- The number of accesses of FILL's phase 1: `D * plane_size` (R154). -/
theorem accessCount_fillBulk (c : Config) (base : Nat) (color : Color) :
    accessCount (fillBulk c base color) = c.d * c.planeSize := by
  unfold fillBulk
  rw [accessCount_flatMap _ _ c.planeSize fun p _ => (accessCount_store _ _ _).trans (List.length_range), List.length_range]

/-- The number of accesses of FILL's phase 2: `32 * D` (R154). -/
theorem accessCount_fillStamps (c : Config) (base : Nat) : accessCount (fillStamps c base) = c.d * 32 := by
  unfold fillStamps
  rw [accessCount_flatMap _ _ 32 fun p _ => (accessCount_modify _ _ _ _).trans (by rw [List.length_range]), List.length_range]

/-- Everything the next accesses of a sequence can do when they stay inside the framebuffer. -/
theorem runAccesses_spec (size n : Nat) (todo : List Access) (m : Memory) (h : ∀ x ∈ todo, x.addr < size) :
    ∃ rest m', runAccesses size n todo m = .ok (rest, m') ∧ (∀ x ∈ rest, x.addr < size) ∧
      afterAccesses rest m' = afterAccesses todo m ∧ accessCount rest = accessCount todo - n ∧
      (m.wf → m'.wf) ∧ ((∀ c ∈ m, c.1 < size) → ∀ c ∈ m', c.1 < size) := by
  induction n generalizing todo m with
  | zero => exact ⟨todo, m, rfl, h, rfl, rfl, id, id⟩
  | succ n ih =>
    cases todo with
    | nil => exact ⟨[], m, rfl, h, rfl, by simp, id, id⟩
    | cons x rest =>
      have hx := h x (by simp)
      cases x with
      | store a v =>
        obtain ⟨r, m', he, hr, ha, hc, hw, hi⟩ := ih rest (m.write a v) fun y hy => h y (by simp [hy])
        refine ⟨r, m', ?_, hr, ha, ?_, fun hm => hw (Memory.write_wf _ _ hm),
          fun hm => hi (Memory.write_inside hm hx)⟩
        · simp only [runAccesses]; rw [if_pos (show a < size from hx), he]
        · simp only [accessCount]; omega
      | modify a keep bits =>
        obtain ⟨r, m', he, hr, ha, hc, hw, hi⟩ :=
          ih (.store a ((m.read a &&& keep) ||| bits) :: rest) m fun y hy => by
            rcases List.mem_cons.1 hy with rfl | hy
            · exact hx
            · exact h y (by simp [hy])
        refine ⟨r, m', ?_, hr, ha, ?_, hw, hi⟩
        · simp only [runAccesses]; rw [if_pos (show a < size from hx), he]
        · simp only [accessCount] at hc ⊢; omega

/-- A whole sequence that stays inside the framebuffer ends with nothing left. -/
theorem runAccesses_all (size n : Nat) (todo : List Access) (m : Memory) (h : ∀ x ∈ todo, x.addr < size)
    (hn : accessCount todo ≤ n) : runAccesses size n todo m = .ok ([], afterAccesses todo m) := by
  obtain ⟨rest, m', he, _, ha, hc, _⟩ := runAccesses_spec size n todo m h
  have : rest = [] := accessCount_eq_zero.1 (by omega)
  subst this
  rw [he, ← ha]; rfl

theorem afterAccesses_wf (todo : List Access) {m : Memory} (h : m.wf) : (afterAccesses todo m).wf := by
  induction todo generalizing m with
  | nil => exact h
  | cons x rest ih => cases x <;> exact ih (Memory.write_wf _ _ h)

theorem afterAccesses_append (l r : List Access) (m : Memory) :
    afterAccesses (l ++ r) m = afterAccesses r (afterAccesses l m) := by
  induction l generalizing m with
  | nil => rfl
  | cons x l ih => cases x <;> exact ih _

/-- A byte no access of the sequence touches reads as before. -/
theorem read_afterAccesses_other (todo : List Access) {m : Memory} (h : m.wf) (a : Nat)
    (ha : ∀ x ∈ todo, x.addr ≠ a) : (afterAccesses todo m).read a = m.read a := by
  induction todo generalizing m with
  | nil => rfl
  | cons x rest ih =>
    have hx := ha x (by simp)
    have hr : ∀ y ∈ rest, y.addr ≠ a := fun y hy => ha y (by simp [hy])
    cases x with
    | store b v =>
      simp only [afterAccesses]
      rw [ih (Memory.write_wf _ _ h) hr, Memory.read_write_other h _ (show a ≠ b from Ne.symm hx)]
    | modify b keep bits =>
      simp only [afterAccesses]
      rw [ih (Memory.write_wf _ _ h) hr, Memory.read_write_other h _ (show a ≠ b from Ne.symm hx)]

/-- Where every access of a byte is the same store, and there is one, the byte ends as stored. -/
theorem read_afterAccesses_store (todo : List Access) {m : Memory} (h : m.wf) (a : Nat) (v : Byte)
    (hs : ∀ x ∈ todo, x.addr = a → x = .store a v) (he : ∃ x ∈ todo, x.addr = a) :
    (afterAccesses todo m).read a = v := by
  induction todo generalizing m with
  | nil => simp at he
  | cons x rest ih =>
    have hr : ∀ y ∈ rest, y.addr = a → y = .store a v := fun y hy => hs y (by simp [hy])
    by_cases hrest : ∃ y ∈ rest, y.addr = a
    · cases x <;> exact ih (Memory.write_wf _ _ h) hr hrest
    · have hx : x.addr = a := by
        obtain ⟨y, hy, hya⟩ := he
        rcases List.mem_cons.1 hy with rfl | hy
        · exact hya
        · exact absurd ⟨y, hy, hya⟩ hrest
      rw [hs x (by simp) hx]
      simp only [afterAccesses]
      rw [read_afterAccesses_other _ (Memory.write_wf _ _ h) _ fun y hy hya => hrest ⟨y, hy, hya⟩,
        Memory.read_write_same h]

/-- Setting the same bits twice is setting them once. -/
theorem modify_idem (v keep bits : Byte) : (((v &&& keep) ||| bits) &&& keep) ||| bits = (v &&& keep) ||| bits := by
  apply BitVec.eq_of_getLsbD_eq
  intro i hi
  simp only [BitVec.getLsbD_or, BitVec.getLsbD_and]
  cases v.getLsbD i <;> cases keep.getLsbD i <;> cases bits.getLsbD i <;> rfl

/-- Where every access of a byte is the same read-modify-write, and there is one, the byte ends as modified. -/
theorem read_afterAccesses_modify (todo : List Access) {m : Memory} (h : m.wf) (a : Nat) (keep bits : Byte)
    (hs : ∀ x ∈ todo, x.addr = a → x = .modify a keep bits) (he : ∃ x ∈ todo, x.addr = a) :
    (afterAccesses todo m).read a = (m.read a &&& keep) ||| bits := by
  induction todo generalizing m with
  | nil => simp at he
  | cons x rest ih =>
    have hr : ∀ y ∈ rest, y.addr = a → y = .modify a keep bits := fun y hy => hs y (by simp [hy])
    by_cases hx : x.addr = a
    · rw [hs x (by simp) hx]
      simp only [afterAccesses]
      have hw := Memory.write_wf a ((m.read a &&& keep) ||| bits) h
      by_cases hrest : ∃ y ∈ rest, y.addr = a
      · rw [ih hw hr hrest, Memory.read_write_same h, modify_idem]
      · rw [read_afterAccesses_other _ hw _ fun y hy hya => hrest ⟨y, hy, hya⟩, Memory.read_write_same h]
    · have hrest : ∃ y ∈ rest, y.addr = a := by
        obtain ⟨y, hy, hya⟩ := he
        rcases List.mem_cons.1 hy with rfl | hy
        · exact absurd hya hx
        · exact ⟨y, hy, hya⟩
      have key : ∀ b v, b ≠ a → (m.write b v).read a = m.read a :=
        fun b v hb => Memory.read_write_other h v (Ne.symm hb)
      cases x <;>
      · simp only [afterAccesses]
        rw [ih (Memory.write_wf _ _ h) hr hrest]
        exact congrArg (fun v => (v &&& keep) ||| bits) (key _ _ hx)

/-- The next accesses of a sequence touch its addresses only, and leave some of them. -/
theorem runAccesses_other (size n : Nat) (todo : List Access) {m m' : Memory} {rest : List Access} (hm : m.wf)
    (he : runAccesses size n todo m = .ok (rest, m')) (a : Nat) (ha : ∀ x ∈ todo, x.addr ≠ a) :
    m'.read a = m.read a ∧ ∀ x ∈ rest, x.addr ≠ a := by
  induction n generalizing todo m with
  | zero =>
    simp only [runAccesses, Except.ok.injEq, Prod.mk.injEq] at he
    obtain ⟨rfl, rfl⟩ := he
    exact ⟨rfl, ha⟩
  | succ n ih =>
    cases todo with
    | nil =>
      simp only [runAccesses, Except.ok.injEq, Prod.mk.injEq] at he
      obtain ⟨rfl, rfl⟩ := he
      exact ⟨rfl, ha⟩
    | cons x todo =>
      have hx := ha x (by simp)
      have hr : ∀ y ∈ todo, y.addr ≠ a := fun y hy => ha y (by simp [hy])
      cases x with
      | store b v =>
        simp only [runAccesses] at he
        split_ifs at he
        have := ih todo (Memory.write_wf b v hm) he hr
        rwa [Memory.read_write_other hm _ (show a ≠ b from Ne.symm hx)] at this
      | modify b keep bits =>
        simp only [runAccesses] at he
        split_ifs at he
        refine ih _ hm he fun y hy => ?_
        rcases List.mem_cons.1 hy with rfl | hy
        · exact hx
        · exact hr y hy

/-- Everything `goOn` can answer on a sequence inside the framebuffer. -/
theorem goOn_spec (s : State) (todo : List Access) (h : ∀ x ∈ todo, x.addr < s.cfg.memSize) :
    ∃ rest m, goOn s todo = .next { s with todo := rest, fb := m } ∧ (∀ x ∈ rest, x.addr < s.cfg.memSize) ∧
      afterAccesses rest m = afterAccesses todo s.fb ∧
      accessCount rest = accessCount todo - s.budget.getD (accessCount todo) ∧
      (s.fb.wf → m.wf) ∧ ((∀ c ∈ s.fb, c.1 < s.cfg.memSize) → ∀ c ∈ m, c.1 < s.cfg.memSize) := by
  obtain ⟨rest, m, he, hr, ha, hc, hw, hi⟩ :=
    runAccesses_spec s.cfg.memSize (s.budget.getD (accessCount todo)) todo s.fb h
  exact ⟨rest, m, by rw [goOn, he], hr, ha, hc, hw, hi⟩

/-- With no event in between, the whole sequence is made. -/
theorem goOn_whole (s : State) (todo : List Access) (h : ∀ x ∈ todo, x.addr < s.cfg.memSize) (hb : s.budget = none) :
    goOn s todo = .next { s with todo := [], fb := afterAccesses todo s.fb } := by
  rw [goOn, hb, Option.getD_none, runAccesses_all _ _ _ _ h le_rfl]

end Sys2Proof.Machine
end

