-- ==== Sys2Proof/Laws/Decode.lean ====
section
/-! SUPPORT. The fields of a packed word, and the word as its fields (30_encoding.md R90). -/

namespace Sys2Proof

@[simp] theorem opField_packWord (op : BitVec 4) (rsv : BitVec 12) (x y : BitVec 16) (c : Color) :
    opField (packWord op rsv x y c) = op := by
  apply BitVec.eq_of_getLsbD_eq
  intro i hi
  simp only [opField, packWord, BitVec.getLsbD_extractLsb', BitVec.getLsbD_append, hi, decide_true, Bool.true_and]
  rw [if_neg (by omega), if_neg (by omega), if_neg (by omega), if_neg (by omega)]
  exact congrArg _ (by omega)

@[simp] theorem rsvField_packWord (op : BitVec 4) (rsv : BitVec 12) (x y : BitVec 16) (c : Color) :
    rsvField (packWord op rsv x y c) = rsv := by
  apply BitVec.eq_of_getLsbD_eq
  intro i hi
  simp only [rsvField, packWord, BitVec.getLsbD_extractLsb', BitVec.getLsbD_append, hi, decide_true, Bool.true_and]
  rw [if_neg (by omega), if_neg (by omega), if_neg (by omega), if_pos (by omega)]
  exact congrArg _ (by omega)

@[simp] theorem xField_packWord (op : BitVec 4) (rsv : BitVec 12) (x y : BitVec 16) (c : Color) :
    xField (packWord op rsv x y c) = x := by
  apply BitVec.eq_of_getLsbD_eq
  intro i hi
  simp only [xField, packWord, BitVec.getLsbD_extractLsb', BitVec.getLsbD_append, hi, decide_true, Bool.true_and]
  rw [if_neg (by omega), if_neg (by omega), if_pos (by omega)]
  exact congrArg _ (by omega)

@[simp] theorem yField_packWord (op : BitVec 4) (rsv : BitVec 12) (x y : BitVec 16) (c : Color) :
    yField (packWord op rsv x y c) = y := by
  apply BitVec.eq_of_getLsbD_eq
  intro i hi
  simp only [yField, packWord, BitVec.getLsbD_extractLsb', BitVec.getLsbD_append, hi, decide_true, Bool.true_and]
  rw [if_neg (by omega), if_pos (by omega)]
  exact congrArg _ (by omega)

@[simp] theorem colorField_packWord (op : BitVec 4) (rsv : BitVec 12) (x y : BitVec 16) (c : Color) :
    colorField (packWord op rsv x y c) = c := by
  apply BitVec.eq_of_getLsbD_eq
  intro i hi
  simp only [colorField, packWord, BitVec.getLsbD_extractLsb', BitVec.getLsbD_append, hi, decide_true, Bool.true_and]
  rw [if_pos (by omega)]
  exact congrArg _ (by omega)

/-- A word is its five fields packed (R90). -/
theorem packWord_fields (w : OpWord) :
    packWord (opField w) (rsvField w) (xField w) (yField w) (colorField w) = w := by
  apply BitVec.eq_of_getLsbD_eq
  intro i hi
  simp only [packWord, opField, rsvField, xField, yField, colorField, BitVec.getLsbD_append,
    BitVec.getLsbD_extractLsb']
  split_ifs
  all_goals
    rw [decide_eq_true (by omega), Bool.true_and]
    exact congrArg _ (by omega)

/-- The bitwise and of two words is that of their fields. -/
theorem packWord_and (op op' : BitVec 4) (rsv rsv' : BitVec 12) (x x' y y' : BitVec 16) (c c' : Color) :
    packWord op rsv x y c &&& packWord op' rsv' x' y' c' =
      packWord (op &&& op') (rsv &&& rsv') (x &&& x') (y &&& y') (c &&& c') := by
  apply BitVec.eq_of_getLsbD_eq
  intro i hi
  simp only [packWord, BitVec.getLsbD_and, BitVec.getLsbD_append]
  split_ifs <;> rfl

/-- Two packed words are the same exactly when their fields are. -/
theorem packWord_inj (op op' : BitVec 4) (rsv rsv' : BitVec 12) (x x' y y' : BitVec 16) (c c' : Color) :
    packWord op rsv x y c = packWord op' rsv' x' y' c' ↔ op = op' ∧ rsv = rsv' ∧ x = x' ∧ y = y' ∧ c = c' := by
  constructor
  · intro h
    exact ⟨by simpa using congrArg opField h, by simpa using congrArg rsvField h, by simpa using congrArg xField h,
      by simpa using congrArg yField h, by simpa using congrArg colorField h⟩
  · rintro ⟨rfl, rfl, rfl, rfl, rfl⟩
    rfl

/-- Two words with the same fields are the same word. -/
theorem word_ext {v w : OpWord} (ho : opField v = opField w) (hr : rsvField v = rsvField w) (hx : xField v = xField w)
    (hy : yField v = yField w) (hc : colorField v = colorField w) : v = w := by
  rw [← packWord_fields v, ← packWord_fields w, ho, hr, hx, hy, hc]

/-- The decoder on a word given by its fields: it reads nothing else (R90). -/
theorem decode_packWord (op : BitVec 4) (x y : BitVec 16) (c : Color) :
    decode (packWord op 0#12 x y c) =
      if op = 0x1 then (if x = 0 ∧ y = 0 ∧ c = 0 then .ok .beginOp else .error .unusedFieldNotZero)
      else if op = 0x2 then .ok (.setPixel x.toInt y.toInt c)
      else if op = 0x3 then (if x = 0 ∧ y = 0 then .ok (.fill c) else .error .unusedFieldNotZero)
      else if op = 0x4 then (if x = 0 ∧ y = 0 ∧ c = 0 then .ok .reqSwap else .error .unusedFieldNotZero)
      else if op = 0x5 then (if x = 0 ∧ y = 0 ∧ c = 0 then .ok .reqResync else .error .unusedFieldNotZero)
      else if op = 0x8 then (if x = 0 ∧ y = 0 ∧ c = 0 then .ok .tick else .error .unusedFieldNotZero)
      else if op = 0x9 then (if x = 0 ∧ y = 0 ∧ c = 0 then .ok .xferByte else .error .unusedFieldNotZero)
      else if op = 0xA then (if x = 0 ∧ y = 0 ∧ c = 0 then .ok .xferDone else .error .unusedFieldNotZero)
      else .error .unassignedOp := by
  unfold decode decodeNoOperand decodeSetPixel decodeFill
  simp only [opField_packWord, rsvField_packWord, xField_packWord, yField_packWord, colorField_packWord]
  exact if_neg (not_not.2 rfl)

/-- A word whose reserved field is not zero is rejected (R94). -/
theorem decode_reserved {w : OpWord} (h : rsvField w ≠ 0) : decode w = .error .reservedNotZero := if_pos h

/-- A coordinate that fits 16 bits comes back from its field (R91). -/
theorem toInt_ofInt_coord {v : Int} (h : CoordOk v) : (BitVec.ofInt 16 v).toInt = v := by
  rw [BitVec.toInt_ofInt]
  exact Int.bmod_eq_of_le (by have := h.1; omega) (by have := h.2; omega)

/-- What the decoder reads from a coordinate field fits 16 bits (R91). -/
theorem coordOk_toInt (v : BitVec 16) : CoordOk v.toInt := by
  have h1 := BitVec.le_toInt v
  have h2 := BitVec.toInt_lt (x := v)
  constructor <;> omega

end Sys2Proof
end

