-- ==== Sys2Proof/Laws/Geometry.lean ====
section
/-! SUPPORT. Bounds of the derived constants, of the byte address of a slice (20_memory.md R60) and of the address mapper
(41_address_mapper.md R137). -/

namespace Sys2Proof

/-- The legal configurations, spelled out (R5). -/
theorem Config.legal_iff (c : Config) : c.legal = true ↔
    32 ≤ c.w ∧ 32 ≤ c.h ∧ 1 ≤ c.d ∧ c.d ≤ 4 ∧ 1 ≤ c.basePeriod ∧ c.basePeriod * 2 ^ (c.d - 1) < 2 ^ 32 ∧
      c.memBytes ≤ 2 ^ 32 := by
  simp only [Config.legal, Bool.and_eq_true, decide_eq_true_eq, and_assoc]

theorem Config.fits_iff (c : Config) : c.fits = true ↔ c.memSize ≤ c.memBytes := by
  simp only [Config.fits, decide_eq_true_eq]

theorem Config.w_eq (c : Config) : c.w = 32 * (c.wReq / 32) := rfl

theorem Config.h_eq_segments (c : Config) : c.h = 32 * c.segments := by
  simp only [Config.h, Config.segments]; omega

theorem Config.chain_eq (c : Config) : c.chain = c.segments * c.w := rfl

theorem Config.rowSize_eq_chain (c : Config) : c.rowSize = c.chain := rfl

/-- `C` is even, since `W` is a multiple of 32 (R136). -/
theorem Config.chain_even (c : Config) : 2 * (c.chain / 2) = c.chain := by
  have : c.chain = 2 * (c.segments * (16 * (c.wReq / 32))) := by
    rw [Config.chain_eq, Config.w_eq]; ring
  omega

theorem Config.segments_pos {c : Config} (h : c.legal = true) : 1 ≤ c.segments := by
  have := ((Config.legal_iff c).1 h).2.1; simp only [Config.segments]; omega

theorem Config.rowSize_ge {c : Config} (h : c.legal = true) : 32 ≤ c.rowSize := by
  have h1 := Config.segments_pos h
  have h2 := ((Config.legal_iff c).1 h).1
  calc 32 ≤ c.w := h2
    _ = 1 * c.w := (one_mul _).symm
    _ ≤ c.segments * c.w := Nat.mul_le_mul_right _ h1

theorem Config.memSize_eq (c : Config) : c.memSize = c.halves * c.bufSize := by
  unfold Config.memSize Config.halves; split <;> simp

theorem Config.bufSize_le_memSize (c : Config) : c.bufSize ≤ c.memSize := by
  unfold Config.memSize; split <;> omega

/-- An offset inside a plane is an offset inside the half. -/
theorem Config.plane_inside {c : Config} {p o : Nat} (hp : p < c.d) (ho : o < c.planeSize) :
    p * c.planeSize + o < c.bufSize := by
  have : (p + 1) * c.planeSize ≤ c.d * c.planeSize := Nat.mul_le_mul_right _ hp
  simp only [Config.bufSize]; rw [Nat.add_mul, one_mul] at this; omega

/-- An offset inside a slice is an offset inside the plane. -/
theorem Config.slice_inside {c : Config} {r i : Nat} (hr : r < 16) (hi : i < c.rowSize) :
    r * c.rowSize + i < c.planeSize := by
  have : (r + 1) * c.rowSize ≤ 16 * c.rowSize := Nat.mul_le_mul_right _ hr
  simp only [Config.planeSize]; rw [Nat.add_mul, one_mul] at this; omega

/-- An offset inside a half that exists is an address of the framebuffer. -/
theorem Config.half_inside {c : Config} {h o : Nat} (hh : h < c.halves) (ho : o < c.bufSize) :
    h * c.bufSize + o < c.memSize := by
  have : (h + 1) * c.bufSize ≤ c.halves * c.bufSize := Nat.mul_le_mul_right _ hh
  rw [Config.memSize_eq]; rw [Nat.add_mul, one_mul] at this; omega

theorem Config.addr_lt {c : Config} {h p r i : Nat} (hh : h < c.halves) (hp : p < c.d) (hr : r < 16)
    (hi : i < c.rowSize) : c.addr h p r i < c.memSize := by
  have h3 := Config.half_inside hh (Config.plane_inside hp (Config.slice_inside hr hi))
  unfold Config.addr; omega

end Sys2Proof

namespace Sys2Proof.Machine

/-- Quotient and remainder are determined: the step from one level of the layout to the next. -/
theorem digit_unique {n a b x y : Nat} (hx : x < n) (hy : y < n) (h : a * n + x = b * n + y) : a = b ∧ x = y := by
  have hn : 0 < n := by omega
  have ha : (a * n + x) / n = a := by
    rw [Nat.add_comm, Nat.add_mul_div_right _ _ hn, Nat.div_eq_of_lt hx, zero_add]
  have hb : (b * n + y) / n = b := by
    rw [Nat.add_comm, Nat.add_mul_div_right _ _ hn, Nat.div_eq_of_lt hy, zero_add]
  have hab : a = b := by rw [← ha, ← hb, h]
  subst hab
  exact ⟨rfl, by omega⟩

theorem State.backHalf_lt (s : State) : s.backHalf < s.cfg.halves := by
  unfold State.backHalf Config.halves
  split <;> omega

theorem State.frontHalf_lt {s : State} (h : s.cfg.db = false → s.frontSel = false) : s.frontHalf < s.cfg.halves := by
  unfold State.frontHalf Config.halves
  cases hd : s.cfg.db
  · simp [h hd]
  · cases s.frontSel <;> decide

/-- An offset inside a half, from `back_base` on, is an address of the framebuffer. -/
theorem State.back_inside (s : State) {o : Nat} (ho : o < s.cfg.bufSize) : s.backBase + o < s.cfg.memSize :=
  Config.half_inside s.backHalf_lt ho

theorem localRow_lt (y : Nat) : localRow y < 32 := by
  unfold localRow; split <;> omega

theorem segmentOf_lt {c : Config} {y : Nat} (h : y < c.h) : segmentOf y < c.segments := by
  rw [Config.h_eq_segments] at h
  rw [segmentOf, Nat.shiftRight_eq_div_pow]; omega

theorem chainColumn_lt {c : Config} {x y : Nat} (hx : x < c.w) (hy : y < c.h) : chainColumn c x y < c.chain := by
  have hs := segmentOf_lt hy
  have hm := Nat.mod_lt x (show 0 < c.w by omega)
  have : (segmentOf y + 1) * c.w ≤ c.segments * c.w := Nat.mul_le_mul_right _ hs
  rw [Config.chain_eq]; rw [Nat.add_mul, one_mul] at this
  unfold chainColumn; split <;> omega

/-- The place of a chain column stays inside the plane (R137). -/
theorem placeOf_off_lt {c : Config} {lr col : Nat} (hl : lr < 32) (hc : col < c.chain) :
    (placeOf c lr col).off < c.planeSize := by
  refine Config.slice_inside (by unfold scanRow; omega) ?_
  have he := Config.chain_even c
  have hu : subRow lr ≤ 1 := by rw [subRow, Nat.shiftRight_eq_div_pow]; omega
  have hk : col >>> 1 < c.chain / 2 := by rw [Nat.shiftRight_eq_div_pow]; omega
  rw [Config.rowSize_eq_chain]
  unfold sliceByte
  rcases Nat.le_one_iff_eq_zero_or_eq_one.1 hu with h | h <;> rw [h] <;> omega

/-- `map` answers nothing outside the panel (R131) and a place inside the plane within it (R137). -/
theorem mapPixel_cases (c : Config) (x y : Int) :
    (¬ InRange c x y ∧ mapPixel c x y = none) ∨
      (InRange c x y ∧ ∃ m, mapPixel c x y = some m ∧ m.off < c.planeSize ∧ m.grp < 2) := by
  by_cases h : InRange c x y
  · refine Or.inr ⟨h, _, if_pos h, ?_, Nat.mod_lt _ (by decide)⟩
    exact placeOf_off_lt (localRow_lt _) (chainColumn_lt (by omega) (by omega))
  · exact Or.inl ⟨h, if_neg h⟩

theorem mapPixel_off_lt {c : Config} {x y : Int} {m : Place} (h : mapPixel c x y = some m) :
    m.off < c.planeSize ∧ m.grp < 2 := by
  rcases mapPixel_cases c x y with ⟨_, h'⟩ | ⟨_, n, h', hn⟩
  · simp [h'] at h
  · rw [h'] at h; cases h; exact hn

/-- `map` never yields a control position (R137). -/
theorem bitPos_range (grp : Nat) (ch : Channel) : 2 ≤ bitPos grp ch ∧ bitPos grp ch ≤ 7 := by
  cases ch <;> simp only [bitPos] <;> split <;> decide

theorem setPixelAccesses_inside (s : State) {m : Place} (hm : m.off < s.cfg.planeSize) (color : Color) :
    ∀ x ∈ setPixelAccesses s.cfg s.backBase m color, x.addr < s.cfg.memSize := by
  intro x hx
  obtain ⟨p, hp, rfl⟩ := List.mem_map.1 hx
  have := s.back_inside (Config.plane_inside (List.mem_range.1 hp) hm)
  simp only [Access.addr]; omega

theorem fillAccesses_inside (s : State) (color : Color) (hr : 1 ≤ s.cfg.rowSize) :
    ∀ x ∈ fillAccesses s.cfg s.backBase color, x.addr < s.cfg.memSize := by
  intro x hx
  rcases List.mem_append.1 hx with hx | hx
  · obtain ⟨p, hp, hx⟩ := List.mem_flatMap.1 hx
    obtain ⟨j, hj, rfl⟩ := List.mem_map.1 hx
    have := s.back_inside (Config.plane_inside (List.mem_range.1 hp) (List.mem_range.1 hj))
    simp only [Access.addr]; omega
  · obtain ⟨p, hp, hx⟩ := List.mem_flatMap.1 hx
    obtain ⟨r, hr', rfl⟩ := List.mem_map.1 hx
    have h1 := Config.slice_inside (c := s.cfg) (List.mem_range.1 hr') (show s.cfg.rowSize - 1 < s.cfg.rowSize by omega)
    have h2 := s.back_inside (Config.plane_inside (List.mem_range.1 hp) h1)
    simp only [Access.addr]; omega

end Sys2Proof.Machine
end

