-- ==== Sys2Proof/Laws/Framebuffer.lean ====
section
/-! SUPPORT. The framebuffer BEGIN leaves: which address is which byte of which slice (20_memory.md R60), and the control
bits (R63). -/

namespace Sys2Proof

/-- An address is of one byte of one slice of one plane of one half (R60). -/
theorem Config.addr_unique {c : Config} {h p r i h' p' r' i' : Nat} (hp : p < c.d) (hr : r < 16) (hi : i < c.rowSize)
    (hp' : p' < c.d) (hr' : r' < 16) (hi' : i' < c.rowSize) (he : c.addr h p r i = c.addr h' p' r' i') :
    h = h' ∧ p = p' ∧ r = r' ∧ i = i' := by
  have s1 := Config.slice_inside hr hi
  have s2 := Config.slice_inside hr' hi'
  unfold Config.addr at he
  obtain ⟨e1, e2⟩ := Machine.digit_unique (Config.plane_inside hp s1) (Config.plane_inside hp' s2)
    (show h * c.bufSize + _ = h' * c.bufSize + _ by omega)
  obtain ⟨e3, e4⟩ := Machine.digit_unique s1 s2 e2
  obtain ⟨e5, e6⟩ := Machine.digit_unique hi hi' e4
  exact ⟨e1, e3, e5, e6⟩

end Sys2Proof

namespace Sys2Proof.Machine

theorem mem_lastBytes {c : Config} {a : Nat} : a ∈ lastBytes c ↔
    ∃ h < c.halves, ∃ p < c.d, ∃ r < 16, c.addr h p r (c.rowSize - 1) = a := by
  simp only [lastBytes, List.mem_flatMap, List.mem_map, List.mem_range]

/-- Every last byte of a slice is inside the framebuffer. -/
theorem lastBytes_inside {c : Config} (hr : 1 ≤ c.rowSize) : ∀ a ∈ lastBytes c, a < c.memSize := by
  intro a ha
  obtain ⟨h, hh, p, hp, r, hr', rfl⟩ := mem_lastBytes.1 ha
  exact Config.addr_lt hh hp hr' (by omega)

theorem addr_mem_lastBytes {c : Config} {h p r i : Nat} (hh : h < c.halves) (hp : p < c.d) (hr : r < 16)
    (hi : i < c.rowSize) : c.addr h p r i ∈ lastBytes c ↔ i = c.rowSize - 1 := by
  rw [mem_lastBytes]
  constructor
  · rintro ⟨h', _, p', hp', r', hr', he⟩
    exact (Config.addr_unique hp' hr' (by omega) hp hr hi he).2.2.2.symm
  · rintro rfl
    exact ⟨h, hh, p, hp, r, hr, rfl⟩

/-- What BEGIN leaves in each byte of the framebuffer (R120). -/
theorem read_clearedFramebuffer (c : Config) {m : Memory} (hm : m.wf) (a : Nat) (ha : a < c.memSize) :
    (clearedFramebuffer c m).read a = if a ∈ lastBytes c then controlMask else 0x00 := by
  unfold clearedFramebuffer
  rw [Memory.read_foldl_write (Memory.fillRange_wf hm _ _ _), Memory.read_fillRange hm,
    if_pos (show 0 ≤ a ∧ a < 0 + c.memSize by omega)]

/-- BEGIN establishes the control bits (R63, R120). -/
theorem installStart_controlInv {s : State} (hm : s.fb.wf) (ht : s.todo = []) : ControlInv (installStart s) := by
  intro _ h p r i hh hp hr hi
  have ht' : (installStart s).todo = [] := ht
  rw [ht']
  have key := (read_clearedFramebuffer s.cfg hm _ (Config.addr_lt hh hp hr hi)).trans
    (if_congr (addr_mem_lastBytes hh hp hr hi) rfl rfl)
  show (clearedFramebuffer s.cfg s.fb).read (s.cfg.addr h p r i) &&& 0x03 = controlBitsOf s.cfg i
  rw [key]
  unfold controlBitsOf
  split <;> rfl

end Sys2Proof.Machine
end

