-- ==== Sys2Proof/Laws/Guards.lean ====
section
/-! SUPPORT. Everything each guard, each meaning and the step can answer when they answer a next state: later proofs cite
these instead of unfolding the machine. -/

namespace Sys2Proof.Machine

/-- With a legal configuration and `STARTED = 1`, the guard is transparent. -/
theorem whenStarted_ready {s : State} (k : State → Result) (hl : s.cfg.legal = true) (hs : s.started = true) :
    whenStarted s k = k s := by
  unfold whenStarted; rw [if_neg (by simp [hl]), if_neg (by simp [hs])]

theorem whenCommand_ready {s : State} (k : State → Result) (h : CommandReady s) : whenCommand s k = k s := by
  unfold whenCommand; rw [whenStarted_ready _ h.1 h.2.1, if_neg (not_not.2 h.2.2)]

theorem whenEvent_ready {s : State} (k : State → Result) (h : EventReady s) : whenEvent s k = k s := by
  unfold whenEvent; rw [whenStarted_ready _ h.1 h.2.1, h.2.2]; rfl

/-- An in-range SETPIXEL that may run goes through its access sequence (R150). -/
theorem execSetPixel_ready {s : State} {x y : Int} {m : Place} (color : Color) (h : CommandReady s)
    (hm : mapPixel s.cfg x y = some m) :
    execSetPixel x y color s = goOn s (setPixelAccesses s.cfg s.backBase m color) := by
  unfold execSetPixel; rw [whenCommand_ready _ h, hm]

/-- An out-of-range SETPIXEL that may run does nothing (R243). -/
theorem execSetPixel_outside {s : State} {x y : Int} (color : Color) (h : CommandReady s)
    (hm : mapPixel s.cfg x y = none) : execSetPixel x y color s = .next s := by
  unfold execSetPixel; rw [whenCommand_ready _ h, hm]; rfl

/-- A FILL that may run goes through its access sequence (R153). -/
theorem execFill_ready {s : State} (color : Color) (h : CommandReady s) :
    execFill color s = goOn s (fillAccesses s.cfg s.backBase color) := whenCommand_ready _ h

theorem execReqSwap_ready {s : State} (h : CommandReady s) : execReqSwap s = .next s.requestSwap :=
  whenCommand_ready _ h

theorem execReqResync_ready {s : State} (h : CommandReady s) : execReqResync s = .next s.requestResync :=
  whenCommand_ready _ h

/-- A TICK that may run makes its six steps (R170). -/
theorem execTick_ready {s : State} (h : EventReady s) (hp : s.plane.toNat < s.cfg.d) : execTick s = .next s.tick := by
  unfold execTick; rw [whenEvent_ready _ h, if_pos hp]

/-- An XFERBYTE that can occur sends its byte (R204). -/
theorem execXferByte_ready {s : State} (h : EventReady s) (hb : s.xferBusy = true)
    (hi : s.xferIdx.toNat < s.xferLen.toNat) (ha : s.sendAddr < s.cfg.memSize) :
    execXferByte s = .next { s.emit (.serialByte (s.fb.read s.sendAddr)) with xferIdx := s.xferIdx + 1 } := by
  unfold execXferByte; rw [whenEvent_ready _ h, if_pos (by simp [hb, hi]), if_pos ha]

/-- An XFERDONE that can occur completes the transfer (R205). -/
theorem execXferDone_ready {s : State} (h : EventReady s) (hb : s.xferBusy = true) (hi : s.xferIdx = s.xferLen) :
    execXferDone s = .next s.completeTransfer := by
  unfold execXferDone; rw [whenEvent_ready _ h, if_pos (by simp [hb, hi])]

theorem whenStarted_next {s t : State} {k : State → Result} (h : whenStarted s k = .next t) :
    s.cfg.legal = true ∧ s.started = true ∧ k s = .next t := by
  unfold whenStarted at h
  split_ifs at h with h1 h2
  exact ⟨by simpa using h1, by simpa using h2, h⟩

theorem whenCommand_next {s t : State} {k : State → Result} (h : whenCommand s k = .next t) :
    CommandReady s ∧ k s = .next t := by
  obtain ⟨hl, hs, h⟩ := whenStarted_next h
  split_ifs at h with ht
  exact ⟨⟨hl, hs, not_not.1 ht⟩, h⟩

theorem whenEvent_next {s t : State} {k : State → Result} (h : whenEvent s k = .next t) :
    EventReady s ∧ k s = .next t := by
  obtain ⟨hl, hs, h⟩ := whenStarted_next h
  split_ifs at h with ht
  exact ⟨⟨hl, hs, by simpa using ht⟩, h⟩

/-- All that `goOn` can change, whatever the sequence. -/
theorem goOn_next {s t : State} {todo : List Access} (h : goOn s todo = .next t) :
    ∃ rest m, runAccesses s.cfg.memSize (s.budget.getD (accessCount todo)) todo s.fb = .ok (rest, m) ∧
      t = { s with todo := rest, fb := m } := by
  unfold goOn at h
  split at h
  · rename_i rest m he
    exact ⟨rest, m, he, by simpa using h.symm⟩
  · exact absurd h (by simp)

/-- What BEGIN can answer (R120, R122). -/
theorem execBegin_next {s t : State} (h : execBegin s = .next t) :
    s.cfg.legal = true ∧ s.todo = [] ∧ s.initStatus = 0x00 ∧
      ((s.cfg.fits = true ∧ t = installStart s) ∨ (s.cfg.fits = false ∧ t = { s with initStatus := 0xFF })) := by
  unfold execBegin at h
  split_ifs at h with h1 h2 h3 h4
  · exact ⟨by simpa using h1, not_not.1 h2, not_not.1 h3, .inl ⟨h4, by simpa using h.symm⟩⟩
  · exact ⟨by simpa using h1, not_not.1 h2, not_not.1 h3, .inr ⟨by simpa using h4, by simpa [State.raise] using h.symm⟩⟩

/-- What SETPIXEL can answer (R150, R243). -/
theorem execSetPixel_next {x y : Int} {color : Color} {s t : State} (h : execSetPixel x y color s = .next t) :
    CommandReady s ∧ ((¬ InRange s.cfg x y ∧ t = s) ∨ (InRange s.cfg x y ∧ ∃ m, mapPixel s.cfg x y = some m ∧
      m.off < s.cfg.planeSize ∧ m.grp < 2 ∧ goOn s (setPixelAccesses s.cfg s.backBase m color) = .next t)) := by
  obtain ⟨hr, h⟩ := whenCommand_next h
  refine ⟨hr, ?_⟩
  rcases mapPixel_cases s.cfg x y with ⟨hn, hm⟩ | ⟨hi, m, hm, ho, hg⟩
  · rw [hm] at h; exact .inl ⟨hn, by simpa [State.raise] using h.symm⟩
  · rw [hm] at h; exact .inr ⟨hi, m, hm, ho, hg, h⟩

/-- What FILL can answer (R153). -/
theorem execFill_next {color : Color} {s t : State} (h : execFill color s = .next t) :
    CommandReady s ∧ goOn s (fillAccesses s.cfg s.backBase color) = .next t := whenCommand_next h

theorem execReqSwap_next {s t : State} (h : execReqSwap s = .next t) : CommandReady s ∧ t = s.requestSwap := by
  obtain ⟨hr, h⟩ := whenCommand_next h
  exact ⟨hr, by simpa using h.symm⟩

theorem execReqResync_next {s t : State} (h : execReqResync s = .next t) : CommandReady s ∧ t = s.requestResync := by
  obtain ⟨hr, h⟩ := whenCommand_next h
  exact ⟨hr, by simpa using h.symm⟩

/-- What TICK can answer (R170). -/
theorem execTick_next {s t : State} (h : execTick s = .next t) :
    EventReady s ∧ s.plane.toNat < s.cfg.d ∧ t = s.tick := by
  obtain ⟨hr, h⟩ := whenEvent_next h
  split_ifs at h with hp
  exact ⟨hr, hp, by simpa using h.symm⟩

/-- What XFERBYTE can answer (R204). -/
theorem execXferByte_next {s t : State} (h : execXferByte s = .next t) :
    EventReady s ∧ s.xferBusy = true ∧ s.xferIdx.toNat < s.xferLen.toNat ∧ s.sendAddr < s.cfg.memSize ∧
      t = { s.emit (.serialByte (s.fb.read s.sendAddr)) with xferIdx := s.xferIdx + 1 } := by
  obtain ⟨hr, h⟩ := whenEvent_next h
  split_ifs at h with h1 h2
  simp only [Bool.and_eq_true, decide_eq_true_eq] at h1
  exact ⟨hr, h1.1, h1.2, h2, by simpa using h.symm⟩

/-- What XFERDONE can answer (R205). -/
theorem execXferDone_next {s t : State} (h : execXferDone s = .next t) :
    EventReady s ∧ s.xferBusy = true ∧ s.xferIdx = s.xferLen ∧ t = s.completeTransfer := by
  obtain ⟨hr, h⟩ := whenEvent_next h
  split_ifs at h with h1
  simp only [Bool.and_eq_true, decide_eq_true_eq] at h1
  exact ⟨hr, h1.1, h1.2, by simpa using h.symm⟩

/-- What a resumed command can answer (R251). -/
theorem resumeCommand_next {s t : State} (h : resumeCommand s = .next t) : s.todo ≠ [] ∧ goOn s s.todo = .next t := by
  unfold resumeCommand at h
  split_ifs at h with h1
  exact ⟨h1, h⟩

/-- What a time unit can do (R252). -/
theorem passTime_next {s t : State} (h : passTime s = .next t) :
    (s.timerRunning = false ∧ t = s) ∨
      (s.timerRunning = true ∧ 1 < s.timerCnt.toNat ∧ t = { s with timerCnt := s.timerCnt - 1 }) ∨
      (s.timerRunning = true ∧ s.timerCnt.toNat ≤ 1 ∧ execTick { s with timerCnt := 0 } = .next t) := by
  unfold passTime at h
  split_ifs at h with h1 h2
  · exact .inr (.inr ⟨h1, h2, h⟩)
  · exact .inr (.inl ⟨h1, by omega, by simpa using h.symm⟩)
  · exact .inl ⟨by simpa using h1, by simpa using h.symm⟩

/-- Everything a step can be: an operation that its word names, the command in progress going on, or a time unit. -/
theorem step_next {s t : State} (h : step s = .next t) :
    ∃ m rest, s.sched = m :: rest ∧
      ((∃ w n i, (m = .line w n ∨ m = .port w n) ∧ decode w = .ok i ∧
          exec i { s with sched := rest, budget := n } = .next t) ∨
        (∃ n, m = .resume n ∧ resumeCommand { s with sched := rest, budget := n } = .next t) ∨
        (m = .timeUnit ∧ passTime { s with sched := rest, budget := none } = .next t)) := by
  unfold step takeMove at h
  cases hs : s.sched with
  | nil => rw [hs] at h; simp at h
  | cons m rest =>
    rw [hs] at h
    refine ⟨m, rest, rfl, ?_⟩
    cases m with
    | line w n =>
      simp only [runMove, whenLegalWord, Move.upTo] at h
      split at h
      · simp at h
      · rename_i i hi; exact .inl ⟨w, n, i, .inl rfl, hi, h⟩
    | port w n =>
      simp only [runMove, whenLegalWord, Move.upTo] at h
      split at h
      · simp at h
      · rename_i i hi
        refine .inl ⟨w, n, i, .inr rfl, ?_, h⟩
        unfold decodePort at hi
        split at hi
        · simp at hi
        · rename_i j hj
          split_ifs at hi
          rw [hj, hi]
    | resume n => exact .inr (.inl ⟨n, rfl, h⟩)
    | timeUnit => exact .inr (.inr ⟨rfl, h⟩)

end Sys2Proof.Machine
end

