-- ==== Sys2Proof/Laws/Moves.lean ====
section
/-! SUPPORT. An operation does not see the moves still listed (log 1): with another list it answers the same, and leaves that
list. -/

namespace Sys2Proof.Machine

/-- An answer with the list of moves `l` in its next state. -/
def withMoves (l : List Move) : Result → Result
  | .next t => .next { t with sched := l }
  | .fault f => .fault f
  | .refused r => .refused r

variable (s : State) (l : List Move)

@[simp] theorem withMoves_next (t : State) : withMoves l (.next t) = .next { t with sched := l } := rfl
@[simp] theorem withMoves_fault (f : Fault) : withMoves l (.fault f) = .fault f := rfl
@[simp] theorem withMoves_refused (r : Refusal) : withMoves l (.refused r) = .refused r := rfl

theorem whenStarted_moves {k : State → Result} (h : k { s with sched := l } = withMoves l (k s)) :
    whenStarted { s with sched := l } k = withMoves l (whenStarted s k) := by
  unfold whenStarted
  by_cases h1 : s.cfg.legal = false
  · simp [h1]
  · by_cases h2 : s.started = false
    · simp [h1, h2]
    · simpa [h1, h2] using h

theorem whenCommand_moves {k : State → Result} (h : k { s with sched := l } = withMoves l (k s)) :
    whenCommand { s with sched := l } k = withMoves l (whenCommand s k) := by
  refine whenStarted_moves s l ?_
  by_cases ht : s.todo = []
  · simpa [ht] using h
  · simp [ht]

theorem whenEvent_moves {k : State → Result} (h : k { s with sched := l } = withMoves l (k s)) :
    whenEvent { s with sched := l } k = withMoves l (whenEvent s k) := by
  refine whenStarted_moves s l ?_
  have he : ({ s with sched := l } : State).halted = s.halted := rfl
  by_cases hh : s.halted = true
  · simp [he, hh]
  · simpa [he, hh] using h

theorem goOn_moves (todo : List Access) : goOn { s with sched := l } todo = withMoves l (goOn s todo) := by
  unfold goOn
  cases runAccesses s.cfg.memSize (s.budget.getD (accessCount todo)) todo s.fb <;> rfl

theorem State.tick_moves : ({ s with sched := l } : State).tick = { s.tick with sched := l } := by
  have hb : ({ s with sched := l } : State).atBoundary = s.atBoundary := rfl
  have ha : ({ s with sched := l } : State).boundaryAction.advance.sliceAddr = s.boundaryAction.advance.sliceAddr := by
    simp [State.sliceAddr, State.frontBase, State.frontHalf, hb]
  apply State.eq_of_fields <;> simp [hb, ha]

theorem resumeCommand_moves : resumeCommand { s with sched := l } = withMoves l (resumeCommand s) := by
  unfold resumeCommand
  by_cases ht : s.todo = []
  · simp [ht]
  · simpa [ht] using goOn_moves s l s.todo

theorem execTick_moves : execTick { s with sched := l } = withMoves l (execTick s) := by
  refine whenEvent_moves s l ?_
  by_cases hp : s.plane.toNat < s.cfg.d
  · simp [hp, State.tick_moves]
  · simp [hp]

/-- No operation sees the moves still listed. -/
theorem exec_moves (i : Instr) : exec i { s with sched := l } = withMoves l (exec i s) := by
  cases i with
  | beginOp =>
    simp only [exec, execBegin]
    split_ifs <;> rfl
  | setPixel x y color =>
    unfold exec execSetPixel
    refine whenCommand_moves s l ?_
    dsimp only
    cases mapPixel s.cfg x y with
    | none => rfl
    | some m => exact goOn_moves s l _
  | fill color =>
    unfold exec execFill
    exact whenCommand_moves s l (goOn_moves s l _)
  | reqSwap =>
    unfold exec execReqSwap
    refine whenCommand_moves s l ?_
    unfold State.requestSwap
    dsimp only
    split_ifs <;> rfl
  | reqResync =>
    unfold exec execReqResync
    exact whenCommand_moves s l rfl
  | tick => exact execTick_moves s l
  | xferByte =>
    unfold exec execXferByte
    refine whenEvent_moves s l ?_
    have ha : ({ s with sched := l } : State).sendAddr = s.sendAddr := rfl
    dsimp only
    rw [ha]
    split_ifs <;> rfl
  | xferDone =>
    unfold exec execXferDone
    refine whenEvent_moves s l ?_
    dsimp only
    split_ifs <;> rfl

/-- No time unit sees the moves still listed. -/
theorem passTime_moves : passTime { s with sched := l } = withMoves l (passTime s) := by
  unfold passTime
  by_cases hr : s.timerRunning = true
  · by_cases h1 : s.timerCnt.toNat ≤ 1
    · simpa [hr, h1] using execTick_moves { s with timerCnt := 0 } l
    · simp [hr, h1]
  · simp [hr]

variable {s}

/-- A run whose first step answers a next state goes on from there. -/
theorem run_succ {t : State} (n : Nat) (h : step s = .next t) : core.run (n + 1) s = core.run n t := by
  have h' : core.step s = .next t := h
  simp only [Host.Core.run, h']

end Sys2Proof.Machine
end

