-- ==== Sys2Proof/Laws/PerInstr.lean ====
section
/-! SUPPORT. Facts about every operation as syntax, one lemma per constructor. Family ReservedZero: an operation's word has
the reserved field zero (30_encoding.md R90, R94). -/

namespace Sys2Proof.Laws

/-- The word of the operation has `RSV = 0x000` (R90). -/
def ReservedZero.Statement (i : Instr) : Prop := rsvField (encode i) = 0

theorem ReservedZero.beginOp : ReservedZero.Statement .beginOp := rsvField_packWord ..
theorem ReservedZero.setPixel (x y : Int) (color : Color) : ReservedZero.Statement (.setPixel x y color) :=
  rsvField_packWord ..
theorem ReservedZero.fill (color : Color) : ReservedZero.Statement (.fill color) := rsvField_packWord ..
theorem ReservedZero.reqSwap : ReservedZero.Statement .reqSwap := rsvField_packWord ..
theorem ReservedZero.reqResync : ReservedZero.Statement .reqResync := rsvField_packWord ..
theorem ReservedZero.tick : ReservedZero.Statement .tick := rsvField_packWord ..
theorem ReservedZero.xferByte : ReservedZero.Statement .xferByte := rsvField_packWord ..
theorem ReservedZero.xferDone : ReservedZero.Statement .xferDone := rsvField_packWord ..

end Sys2Proof.Laws
end

