-- ==== Sys2Proof/Tests/Slice0.lean ====
section
/-! SUPPORT. The model's own tests. Every expected value comes from the spec (95_test_vectors.md, opcode_table.json, R91) or
is worked out by hand from its rules. `wit_<Name>` shows values that meet the hypotheses of the obligation `<Name>`. -/

namespace Sys2Proof.Machine.Tests

/-! ### WellFormed: one ill-formed term per check -/

theorem test_wf_edges : (Instr.setPixel (-32768) 32767 0xFFFF).wf = true := by decide
theorem test_ill_x_low : (Instr.setPixel (-32769) 0 0).wf = false := by decide
theorem test_ill_x_high : (Instr.setPixel 32768 0 0).wf = false := by decide
theorem test_ill_y_low : (Instr.setPixel 0 (-32769) 0).wf = false := by decide
theorem test_ill_y_high : (Instr.setPixel 0 32768 0).wf = false := by decide

/-! ### Decoding: words written out from the encodings of opcode_table.json -/

theorem test_decode_begin :
    decode 0b0001000000000000000000000000000000000000000000000000000000000000#64 = .ok .beginOp := by decide
theorem test_decode_setPixel :
    decode 0b0010000000000000111111111111111100000000001010001111100000011111#64 = .ok (.setPixel (-1) 40 0xF81F) := by
  decide
theorem test_decode_fill :
    decode 0b0011000000000000000000000000000000000000000000000101010101000110#64 = .ok (.fill 0x5546) := by decide
theorem test_decode_reqSwap :
    decode 0b0100000000000000000000000000000000000000000000000000000000000000#64 = .ok .reqSwap := by decide
theorem test_decode_reqResync :
    decode 0b0101000000000000000000000000000000000000000000000000000000000000#64 = .ok .reqResync := by decide
theorem test_decode_tick :
    decode 0b1000000000000000000000000000000000000000000000000000000000000000#64 = .ok .tick := by decide
theorem test_decode_xferByte :
    decode 0b1001000000000000000000000000000000000000000000000000000000000000#64 = .ok .xferByte := by decide
theorem test_decode_xferDone :
    decode 0b1010000000000000000000000000000000000000000000000000000000000000#64 = .ok .xferDone := by decide
theorem test_reject_unassigned : ∀ op ∈ [0x0#4, 0x6#4, 0x7#4, 0xB#4, 0xC#4, 0xD#4, 0xE#4, 0xF#4],
    decode (op ++ 0#60) = .error .unassignedOp := by decide
theorem test_reject_reserved : decode 0x2800000000000000 = .error .reservedNotZero := by decide
theorem test_reject_fill_y : decode 0x3000000080005546 = .error .unusedFieldNotZero := by decide
theorem test_reject_tick_color : decode 0x8000000000000001 = .error .unusedFieldNotZero := by decide
theorem test_reject_event_on_port : decodePort 0xA000000000000000 = .error .eventOnPort := by decide
theorem test_encode_setPixel : encode (.setPixel (-1) 0 0xF800) = 0x2000FFFF0000F800 := by decide
theorem test_encode_setPixel_edges : encode (.setPixel (-32768) 32767 0xFFFF) = 0x200080007FFFFFFF := by decide
theorem test_tableWord : decodeTableWord 64 0x20000002001EF800 = some (.setPixel 2 30 0xF800) := by decide
theorem test_tableWord_long : decodeTableWord 72 0x1000000000000000 = none := by decide

/-! ### Small states -/

/-- 32x32, one plane, one buffer (the configuration of P1). -/
def smallConfig : Config := { resetConfig with d := 1, db := false }

/-- 128x64, three planes, one buffer (the configuration of S7). -/
def wideConfig : Config := { resetConfig with wReq := 128, hReq := 64, d := 3, db := false }

/-- A started block at `(15, D-1)` with nothing in flight: what BEGIN leaves but for the framebuffer and the trace. -/
def ready (c : Config) : State := { State.powerOn c with
  started := true, initStatus := 0x01, row := 15, plane := BitVec.ofNat 2 (c.d - 1), tickPeriod := 100, timerCnt := 100,
  timerRunning := true }

/-- A started block with the first slice in flight. -/
def busy (c : Config) (idx : Reg32) : State := { ready c with
  row := 0, plane := 0, blank := false, xferBusy := true, xferBase := 0, xferLen := 32, xferIdx := idx }

/-- A debug build after an overlap. -/
def halted : State := { busy { smallConfig with debugTrap := true } 10 with faultReg := 0x01 }

/-- The next state an operation answers satisfies the check. -/
def after (o : Result) (check : State → Bool) : Bool :=
  match o with
  | .next t => check t
  | _ => false

/-! ### One step of each operation -/

/-- R120 on the configuration of P2, as the first step after reset. -/
theorem test_begin_first : after (step (State.reset.withFetchWord 64 0x1000000000000000)) (fun t =>
    t.started && t.row == 15 && t.plane == 1 && t.blank && t.timerCnt == 100 && t.trace == [.clearPulse]) = true := by
  decide
/-- V17: one byte of storage too few (R122). -/
theorem test_begin_without_storage :
    after (execBegin (State.powerOn { wideConfig with db := true, memBytes := 24575 })) (fun t =>
      t.initStatus == 0xFF && !t.started && t.trace == []) = true := by decide
/-- V8: `r4 = 0b0100`, `D = 2`; the back half is half 1. -/
theorem test_setPixel_depth : after (execSetPixel 0 0 0x4000 { ready resetConfig with fb := [(1055, 0x03)] }) (fun t =>
    t.fb == [(1055, 0x03), (1536, 0x80)]) = true := by decide
/-- V7: the neighbour in the same byte is kept (128x64: off 3713). -/
theorem test_setPixel_neighbour :
    after (execSetPixel 2 30 0x001F { ready wideConfig with fb := [(3713, 0x88), (7809, 0x88), (11905, 0x88)] })
      (fun t => t.fb == [(3713, 0x28), (7809, 0x28), (11905, 0x28)]) = true := by decide
/-- V11: the first three accesses of a FILL. -/
theorem test_fill_phase1 : after (execFill 0xF800 { ready smallConfig with budget := some 3 }) (fun t =>
    t.fb == [(0, 0x90), (1, 0x90), (2, 0x90)] && !t.todo.isEmpty) = true := by decide +kernel
/-- V11: the control bits of a last byte are set again by the last two accesses. -/
theorem test_fill_phase2 : after (resumeCommand { ready smallConfig with
    fb := [(511, 0x90)], todo := [.modify 511 0xFF 0x03] }) (fun t => t.fb == [(511, 0x93)] && t.todo.isEmpty) = true := by
  decide
/-- V12. -/
theorem test_reqSwap_double : after (execReqSwap (ready resetConfig)) (fun t => t.swapReq) = true := by decide
theorem test_reqSwap_single : after (execReqSwap (ready smallConfig)) (fun t => !t.swapReq) = true := by decide
theorem test_reqResync : after (execReqResync (ready smallConfig)) (fun t => t.resyncReq && !t.swapReq) = true := by decide
/-- Tick 33 of P2. -/
theorem test_tick_swap : after (execTick { ready resetConfig with swapReq := true }) (fun t =>
    t.frontSel && !t.swapReq && t.row == 0 && t.plane == 0 &&
      t.trace == [.blankOn, .setPeriod 100, .xferStart 1024 32, .blankOff]) = true := by decide
/-- The second tick of P4: an overlap. -/
theorem test_tick_overlap : after (execTick (busy smallConfig 10)) (fun t =>
    t.faultReg == 0x01 && t.row == 1 && t.xferIdx == 10 && t.xferBase == 0 &&
      t.trace == [.blankOn, .setPeriod 100, .xferDropped 32 32, .blankOff]) = true := by decide
/-- P1: the last byte of the first slice. -/
theorem test_xferByte : after (execXferByte { busy smallConfig 31 with fb := [(0, 0x80), (31, 0x03)] }) (fun t =>
    t.xferIdx == 32 && t.trace == [.serialByte 0x03]) = true := by decide
/-- V16: a 33rd XFERBYTE is not enabled. -/
theorem test_xferByte_33 : execXferByte (busy smallConfig 32) = .refused .eventNotEnabled := rfl
theorem test_xferDone : after (execXferDone (busy smallConfig 32)) (fun t =>
    !t.xferBusy && t.xferIdx == 32 && t.trace == [.xferDone]) = true := by decide
/-- P4: no step after an overlap in a debug build. -/
theorem test_xferDone_halted : execXferDone halted = .fault .debugTrapHalt := rfl

/-! ### The address mapper, the colour codec, the serial order -/

/-- V4 and V5. -/
theorem test_mapPixel : mapPixel { smallConfig with hReq := 64 } 5 40 = some ⟨509, 0⟩ ∧
    mapPixel { smallConfig with hReq := 64 } 0 32 = some ⟨1023, 1⟩ ∧
    mapPixel smallConfig 31 31 = some ⟨511, 1⟩ ∧ mapPixel { smallConfig with wReq := 100, hReq := 40 } 96 0 = none := by
  decide
/-- V18. -/
theorem test_channels : channelValue 0xB25B .red = 0xB ∧ channelValue 0xB25B .green = 4 ∧
    channelValue 0xB25B .blue = 0xD := by decide
/-- P1: the last three bits of the stream. -/
theorem test_serialStream : serialStream [.serialByte 0x80, .xferDone, .serialByte 0x03] =
    [true, false, false, false, false, false, false, false, false, false, false, false, false, false, true, true] := by
  decide
/-- R252: the time unit that brings the timer to 0 is a tick. -/
theorem test_timeUnit_ticks : after (passTime { ready smallConfig with timerCnt := 1 }) (fun t =>
    t.row == 0 && t.timerCnt == 100) = true := by decide

/-! ### Witnesses: values that meet the hypotheses of the obligations -/

theorem ready_inv (c : Config) (hl : c.legal = true) (hf : c.fits = true) (hd : c.d = 1 ∨ c.d = 2 ∨ c.d = 3) :
    Inv (ready c) where
  fb_wf := ⟨List.Pairwise.nil, by simp [ready, State.powerOn]⟩
  fb_inside := by simp [ready, State.powerOn]
  status_value := .inr (.inl rfl)
  started_iff := ⟨fun _ => rfl, fun _ => rfl⟩
  fault_high := (by decide : 0x00#8 &&& 0xFE#8 = 0x00#8)
  config_ok := fun _ => ⟨hl, hf⟩
  plane_lt := by
    show true = true → (BitVec.ofNat 2 (c.d - 1)).toNat < c.d
    rcases hd with h | h | h <;> rw [h] <;> decide
  timer_running := rfl
  timer_pos := fun _ => (by decide : 1 ≤ (100#32).toNat)
  single := fun _ => ⟨rfl, rfl⟩
  transfer := by simp [ready, State.powerOn]
  todo_inside := by simp [ready, State.powerOn]
  before_start := by simp [ready]

theorem reset_ready_inv : Inv (ready resetConfig) := ready_inv _ (by decide) (by decide) (by decide)

/-- The invariant does not see the moves listed. -/
theorem inv_with_moves {s : State} (h : Inv s) (l : List Move) (b : Option Nat) : Inv { s with sched := l, budget := b } :=
  ⟨h.1, h.2, h.3, h.4, h.5, h.6, h.7, h.8, h.9, h.10, h.11, h.12, h.13⟩

theorem busy_inv (idx : Reg32) (h : idx.toNat ≤ 32) : Inv (busy smallConfig idx) where
  fb_wf := ⟨List.Pairwise.nil, by simp [busy, ready, State.powerOn]⟩
  fb_inside := by simp [busy, ready, State.powerOn]
  status_value := .inr (.inl rfl)
  started_iff := ⟨fun _ => rfl, fun _ => rfl⟩
  fault_high := (by decide : 0x00#8 &&& 0xFE#8 = 0x00#8)
  config_ok := fun _ => ⟨(by decide : smallConfig.legal = true), (by decide : smallConfig.fits = true)⟩
  plane_lt := fun _ => (by decide : 0 < smallConfig.d)
  timer_running := rfl
  timer_pos := fun _ => (by decide : 1 ≤ (100#32).toNat)
  single := fun _ => ⟨rfl, rfl⟩
  transfer := fun _ => ⟨(by decide : 32 = smallConfig.rowSize), h, (by decide : 0 + 32 ≤ smallConfig.memSize)⟩
  todo_inside := by simp [busy, ready, State.powerOn]
  before_start := by simp [busy, ready]

theorem controlInv_with_moves {s : State} (h : ControlInv s) (l : List Move) (b : Option Nat) :
    ControlInv { s with sched := l, budget := b } := h

/-- The block right after BEGIN on the reset configuration. -/
def begun : State := installStart State.reset

theorem reset_inv : Inv State.reset where
  fb_wf := ⟨List.Pairwise.nil, by simp [State.reset, State.powerOn]⟩
  fb_inside := by simp [State.reset, State.powerOn]
  status_value := .inl rfl
  started_iff := by decide
  fault_high := by decide
  config_ok := by simp [State.reset, State.powerOn]
  plane_lt := by simp [State.reset, State.powerOn]
  timer_running := rfl
  timer_pos := by simp [State.reset, State.powerOn]
  single := fun _ => ⟨rfl, rfl⟩
  transfer := by simp [State.reset, State.powerOn]
  todo_inside := by simp [State.reset, State.powerOn]
  before_start := fun _ => ⟨rfl, rfl, rfl, rfl, rfl, rfl, rfl, rfl, rfl, rfl, rfl, rfl, rfl, rfl, rfl⟩

/-- A BEGIN that succeeds installs a state with the invariant. -/
theorem installStart_inv {s : State} (h : Inv s) (hl : s.cfg.legal = true) (hf : s.cfg.fits = true) (ht : s.todo = []) :
    Inv (installStart s) := by
  have hd := (Config.legal_iff _).1 hl
  have hr := Config.rowSize_ge hl
  refine ⟨Memory.foldl_write_wf (Memory.fillRange_wf h.fb_wf _ _ _) _ _,
    Memory.foldl_write_inside (Memory.fillRange_inside h.fb_inside _ _ _ (Nat.zero_add _).le) _ _
      (lastBytes_inside (by omega)), .inr (.inl rfl), ⟨fun _ => rfl, fun _ => rfl⟩,
    (by decide : 0x00#8 &&& 0xFE#8 = 0x00#8), fun _ => ⟨hl, hf⟩, ?_, rfl, ?_, fun _ => ⟨rfl, rfl⟩, ?_, ?_, ?_⟩
  · intro _
    show (BitVec.ofNat 2 (s.cfg.d - 1)).toNat < s.cfg.d
    rw [BitVec.toNat_ofNat]; omega
  · intro _
    show 1 ≤ (BitVec.ofNat 32 s.cfg.basePeriod).toNat
    have : s.cfg.basePeriod * 1 ≤ s.cfg.basePeriod * 2 ^ (s.cfg.d - 1) := Nat.mul_le_mul_left _ Nat.one_le_two_pow
    rw [BitVec.toNat_ofNat, Nat.mod_eq_of_lt (by omega)]; omega
  · intro hb; simp [installStart] at hb
  · show ∀ x ∈ s.todo, _
    simp [ht]
  · intro hb; simp [installStart] at hb

theorem begun_inv : Inv begun := installStart_inv reset_inv (by decide) (by decide) rfl

theorem begin_reset : exec .beginOp State.reset = .next begun := by
  show execBegin State.reset = _
  unfold execBegin
  rw [if_neg (by decide), if_neg (by decide), if_neg (by decide), if_pos (by decide)]
  rfl

theorem begun_initStatus : begun.initStatus = 0x01 := rfl

theorem begun_controlInv : ControlInv begun := installStart_controlInv reset_inv.fb_wf rfl

theorem ready_command (c : Config) (h : c.legal = true) : CommandReady (ready c) := ⟨h, rfl, rfl⟩

theorem ready_event (c : Config) (h : c.legal = true) (hd : c.debugTrap = false) : EventReady (ready c) :=
  ⟨h, rfl, by simp [State.halted, ready, State.powerOn, hd]⟩

theorem wit_StepRunsTheDecodedLine : ∃ (s : State) (w : OpWord) (n : Option Nat) (rest : List Move) (i : Instr),
    s.sched = .line w n :: rest ∧ decode w = .ok i :=
  ⟨{ State.reset with sched := [.line 0x1000000000000000 none] }, _, _, _, _, rfl, test_decode_begin⟩

theorem wit_CommandPortTakesCommandsOnly : ∃ (s s' : State) (w w' : OpWord) (n : Option Nat) (i i' : Instr),
    s.sched = [.port w n] ∧ decode w = .ok i ∧ i.domain = .application ∧
      s'.sched = [.port w' n] ∧ decode w' = .ok i' ∧ i'.domain = .interrupt :=
  ⟨{ State.reset with sched := [.port 0x4000000000000000 none] },
    { State.reset with sched := [.port 0x8000000000000000 none] }, _, _, _, _, _, rfl, test_decode_reqSwap, rfl, rfl,
    test_decode_tick, rfl⟩

theorem wit_FetchedWordRunsItsInstruction : (Instr.setPixel (-32768) 32767 0xFFFF).wf = true := test_wf_edges

theorem wit_EndedRunHasNoStep : State.reset.sched = [] ∧
    ∃ (s : State) (n : Option Nat), s.sched = [.resume n] ∧ s.todo = [] :=
  ⟨rfl, { State.reset with sched := [.resume none] }, none, rfl, rfl⟩

theorem wit_IllegalWordsAreRefused : ∃ s s' s'' : State,
    s.sched = [.line 0x6000000000000000 none] ∧ IllegalWord 0x6000000000000000 ∧
      s'.sched = [.port 0x9000000000000000 none] ∧ EventWord 0x9000000000000000 ∧ ¬ IllegalWord 0x9000000000000000 ∧
      s''.sched = [.line 0x3000000000005546 none] ∧ ¬ IllegalWord 0x3000000000005546 :=
  ⟨{ State.reset with sched := [.line 0x6000000000000000 none] },
    { State.reset with sched := [.port 0x9000000000000000 none] },
    { State.reset with sched := [.line 0x3000000000005546 none] }, rfl, by unfold IllegalWord; decide, rfl,
    by unfold EventWord; decide, by unfold IllegalWord; decide, rfl, by unfold IllegalWord; decide⟩

theorem wit_DecodeInvertsEncode : (Instr.setPixel 32767 (-32768) 0).wf = true := by decide

theorem wit_EncodeInvertsDecode : ∃ i, decode 0x20000002001EF800 = .ok i := ⟨.setPixel 2 30 0xF800, by decide⟩

theorem wit_PowerOnAcceptsOnlyBegin : Instr.fill 0 ≠ .beginOp ∧ resetConfig.legal = true := by decide

/-- The legal geometries and depths at their smallest and largest. -/
theorem wit_legal_edges : ({ resetConfig with d := 4, basePeriod := 2 ^ 29 - 1 } : Config).legal = true ∧
    ({ smallConfig with basePeriod := 1 } : Config).legal = true ∧
    ({ smallConfig with basePeriod := 2 ^ 32 - 1, memBytes := 0 } : Config).legal = true := by decide

/-- V17: exactly enough storage, and one byte too few. -/
theorem wit_BeginInstallsTheStartState : ∃ s s' : State,
    (s.cfg.legal = true ∧ s.todo = [] ∧ s.initStatus = 0x00 ∧ s.fb.wf ∧ s.cfg.memSize ≤ s.cfg.memBytes) ∧
    (s'.cfg.legal = true ∧ s'.todo = [] ∧ s'.initStatus = 0x00 ∧ s'.fb.wf ∧ s'.cfg.memBytes < s'.cfg.memSize) :=
  ⟨State.powerOn { wideConfig with db := true, memBytes := 24576 },
    State.powerOn { wideConfig with db := true, memBytes := 24575 },
    ⟨by decide, rfl, rfl, reset_inv.fb_wf, by decide⟩, ⟨by decide, rfl, rfl, reset_inv.fb_wf, by decide⟩⟩

theorem wit_BeginRunsOnce : ∃ s : State, s.cfg.legal = true ∧ s.todo = [] ∧ s.initStatus ≠ 0x00 :=
  ⟨{ State.reset with initStatus := 0xFF }, by decide, rfl, by decide⟩

theorem wit_NothingRunsBeforeBegin : State.reset.cfg.legal = true ∧ State.reset.started = false ∧
    Instr.tick ≠ .beginOp ∧ Inv State.reset := ⟨by decide, rfl, by decide, reset_inv⟩

/-- One configuration for each way to be illegal, at the edge. -/
theorem wit_IllegalConfigurationsAreRefused :
    ({ resetConfig with wReq := 31 } : Config).w < 32 ∧ ({ resetConfig with hReq := 31 } : Config).h < 32 ∧
    ({ resetConfig with d := 0 } : Config).d < 1 ∧ 4 < ({ resetConfig with d := 5 } : Config).d ∧
    ({ resetConfig with basePeriod := 0 } : Config).basePeriod < 1 ∧ 2 ^ 32 ≤ 2 ^ 29 * 2 ^ (4 - 1) ∧
    2 ^ 32 < ({ resetConfig with memBytes := 2 ^ 32 + 1 } : Config).memBytes := by decide

theorem wit_SecondCommandIsRefused : ∃ s : State, s.cfg.legal = true ∧ s.started = true ∧ s.todo ≠ [] ∧
    Instr.reqSwap.domain = .application :=
  ⟨{ ready smallConfig with todo := [.store 0 0] }, by decide, rfl, by decide, rfl⟩

theorem wit_StartedIsForLife : ∃ s t : State, step s = .next t ∧ s.started = true :=
  ⟨{ ready smallConfig with sched := [lineOfInstr .reqResync] }, { ready smallConfig with resyncReq := true }, rfl, rfl⟩

/-- The corners of the panel have a place; a pixel beside it has none. -/
theorem wit_SetPixelWritesItsPlace : CommandReady (ready resetConfig) ∧ (ready resetConfig).budget = none ∧
    (ready resetConfig).fb.wf ∧ mapPixel resetConfig 0 0 = some ⟨0, 0⟩ ∧ mapPixel resetConfig 31 31 = some ⟨511, 1⟩ ∧
    mapPixel resetConfig 32 31 = none ∧ 1 < resetConfig.d :=
  ⟨ready_command _ (by decide), rfl, reset_ready_inv.fb_wf, by decide, by decide, by decide, by decide⟩

/-- V9 on 32x32: the four edges. -/
theorem wit_SetPixelOutOfRangeDoesNothing : CommandReady (ready resetConfig) ∧ ((-1 : Int) < 0 ∧
    (resetConfig.w : Int) ≤ 32 ∧ (resetConfig.h : Int) ≤ 32) ∧ ¬ InRange resetConfig 32 0 ∧ ¬ InRange resetConfig 0 32 ∧
    ¬ InRange resetConfig (-1) 0 ∧ ¬ InRange resetConfig 0 (-1) :=
  ⟨ready_command _ (by decide), by decide, by decide, by decide, by decide, by decide⟩

/-- The pixel itself in the last plane, and another pixel of the same byte. -/
theorem wit_SetPixelChangesOnePixelOnly : CommandReady (ready resetConfig) ∧ (ready resetConfig).budget = none ∧
    (ready resetConfig).fb.wf ∧ InRange resetConfig 31 31 ∧ InRange resetConfig 30 31 ∧ 1 < resetConfig.d ∧
    (∃ t, exec (.setPixel 31 31 0xFFFF) (ready resetConfig) = .next t) ∧
    slot resetConfig 31 31 1 .blue = some (1023, 2) ∧ slot resetConfig 30 31 1 .red = some (1023, 7) := by
  refine ⟨ready_command _ (by decide), rfl, reset_ready_inv.fb_wf, by decide, by decide, by decide, ?_, by decide,
    by decide⟩
  exact ⟨_, (execSetPixel_ready _ (ready_command _ (by decide)) (m := ⟨511, 1⟩) (by decide)).trans
    (goOn_whole _ _ (setPixelAccesses_inside _ (by decide) _) rfl)⟩

theorem wit_FillWritesTheBackHalf : CommandReady (ready resetConfig) ∧ (ready resetConfig).budget = none ∧
    (ready resetConfig).fb.wf ∧ 1 < resetConfig.d ∧ (15 < 16) ∧ 31 < resetConfig.rowSize :=
  ⟨ready_command _ (by decide), rfl, reset_ready_inv.fb_wf, by decide, by decide, by decide⟩

theorem wit_FillWindowHasControlBitsClear : ∃ s : State, CommandReady s ∧ s.fb.wf ∧
    s.budget = some (s.cfg.d * s.cfg.planeSize) :=
  ⟨{ ready smallConfig with budget := some 512 }, ready_command smallConfig (by decide),
    ⟨List.Pairwise.nil, by simp [ready, State.powerOn]⟩, by decide⟩

theorem wit_AccessSequencesAreBounded : CommandReady (ready resetConfig) ∧ InRange resetConfig 31 0 :=
  ⟨ready_command _ (by decide), by decide⟩

/-- A SETPIXEL cut before its read and again after it, and a tick, has its write left; cut after both accesses it has nothing
left. -/
theorem wit_InterruptionsDoNotChangeTheFramebuffer : CommandReady (ready smallConfig) ∧ (ready smallConfig).fb.wf ∧
    (∃ t t' : State, exec (.setPixel 0 0 0xF800) { ready smallConfig with budget := some 0 } = .next t ∧ InterruptedRun t t' ∧
      t'.todo ≠ []) ∧
    ∃ t : State, exec (.setPixel 0 0 0xF800) { ready smallConfig with budget := some 2 } = .next t ∧ InterruptedRun t t ∧
      t.todo = [] :=
  ⟨ready_command _ (by decide), (ready_inv smallConfig (by decide) (by decide) (by decide)).fb_wf,
    ⟨{ ready smallConfig with budget := some 0, todo := [.modify 0 0x1F 0x80] }, _, rfl,
      .accesses (t := { ready smallConfig with budget := some 1, todo := [.store 0 0x80] }) 1 rfl
        (.event .tick rfl (execTick_ready (by decide) (by decide)) (.none _)), by decide⟩,
    ⟨{ ready smallConfig with budget := some 2, fb := [(0, 0x80)] }, rfl, .none _, rfl⟩⟩

theorem wit_ReqSwapSetsItsFlag : CommandReady (ready resetConfig) ∧ (ready resetConfig).cfg.db = true ∧
    CommandReady (ready smallConfig) ∧ (ready smallConfig).cfg.db = false :=
  ⟨ready_command _ (by decide), rfl, ready_command _ (by decide), rfl⟩

theorem wit_ReqResyncSetsItsFlag : CommandReady (ready smallConfig) := ready_command _ (by decide)

theorem wit_RequestsCoalesce : (∃ t, exec .reqSwap (ready resetConfig) = .next t) ∧
    ∃ t, exec .reqResync (ready smallConfig) = .next t :=
  ⟨⟨_, execReqSwap_ready (ready_command _ (by decide))⟩, ⟨_, execReqResync_ready (ready_command _ (by decide))⟩⟩

theorem wit_CommandsLeaveTheSchedulerAlone : Instr.reqSwap.domain = .application ∧ Instr.reqSwap ≠ .beginOp ∧
    CommandReady (ready resetConfig) ∧ (ready resetConfig).budget = none ∧
    ∃ t, exec .reqSwap (ready resetConfig) = .next t :=
  ⟨rfl, by decide, ready_command _ (by decide), rfl, _, execReqSwap_ready (ready_command _ (by decide))⟩

/-- The back half of 32x32, two planes, is 1024..2047; in single-buffer mode 0..511. -/
theorem wit_CommandsWriteOnlyTheBackHalf : (∃ t, exec (.fill 0) (ready resetConfig) = .next t) ∧
    (ready resetConfig).fb.wf ∧ 1023 < (ready resetConfig).backBase ∧
    (ready resetConfig).backBase + resetConfig.bufSize ≤ 2048 ∧ (ready smallConfig).backBase + smallConfig.bufSize ≤ 512 :=
  ⟨⟨_, (execFill_ready 0 (ready_command _ (by decide))).trans (goOn_whole _ _ (fillAccesses_inside _ _ (by decide)) rfl)⟩,
    reset_ready_inv.fb_wf, by decide, by decide, by decide⟩

theorem wit_TickIsTheSixSteps : EventReady (ready resetConfig) ∧
    (ready resetConfig).plane.toNat < (ready resetConfig).cfg.d ∧
    EventReady (busy smallConfig 10) ∧ (busy smallConfig 10).plane.toNat < (busy smallConfig 10).cfg.d := by decide

/-- One state for each clause. -/
theorem wit_BoundaryAppliesAtMostOneAction : ∃ s s' s'' : State,
    (EventReady s ∧ s.plane.toNat < s.cfg.d ∧ (s.row ≠ 15 ∨ s.plane.toNat ≠ s.cfg.d - 1)) ∧
    (EventReady s' ∧ s'.plane.toNat < s'.cfg.d ∧ s'.row = 15 ∧ s'.plane.toNat = s'.cfg.d - 1 ∧ s'.resyncReq = true) ∧
    (EventReady s'' ∧ s''.plane.toNat < s''.cfg.d ∧ s''.row = 15 ∧ s''.plane.toNat = s''.cfg.d - 1 ∧
      s''.resyncReq = false ∧ s''.swapReq = true ∧ s''.cfg.db = true) :=
  ⟨{ ready resetConfig with plane := 0 }, { ready resetConfig with resyncReq := true, swapReq := true },
    { ready resetConfig with swapReq := true }, by decide, by decide, by decide⟩

/-- A boundary tick with a swap pending, as the next move. -/
def swapping : State := { ready resetConfig with swapReq := true, sched := [lineOfInstr .tick] }

theorem swapping_inv : Inv swapping :=
  have h := reset_ready_inv
  ⟨h.1, h.2, h.3, h.4, h.5, h.6, h.7, h.8, h.9, fun hb => absurd hb (by decide), h.11, h.12,
    fun hs => absurd (show true = false from hs) (by decide)⟩

theorem wit_FrontSelChangesOnlyAtABoundarySwap : ∃ t : State, Inv swapping ∧ step swapping = .next t ∧
    t.frontSel ≠ swapping.frontSel :=
  ⟨_, swapping_inv, execTick_ready (s := { swapping with sched := [] }) (by decide) (by decide), by decide⟩

theorem wit_SwapHandsTheBackHalfToScanOut : Inv swapping ∧ EventReady swapping ∧ swapping.cfg.db = true ∧
    swapping.swapReq = true ∧ swapping.resyncReq = false ∧ swapping.row = 15 ∧
    swapping.plane.toNat = swapping.cfg.d - 1 ∧ swapping.xferBusy = false :=
  ⟨swapping_inv, by decide⟩

/-- An overlap in a release build and in a debug build. -/
theorem wit_OverlapDropsTheRequest : ∃ s s' : State,
    (EventReady s ∧ s.plane.toNat < s.cfg.d ∧ s.xferBusy = true ∧ s.cfg.debugTrap = false) ∧
    (EventReady s' ∧ s'.plane.toNat < s'.cfg.d ∧ s'.xferBusy = true ∧ s'.cfg.debugTrap = true) :=
  ⟨busy smallConfig 10, busy { smallConfig with debugTrap := true } 10, by decide, by decide⟩

theorem wit_FaultIsSticky :
    (∃ s t : State, Inv s ∧ step s = .next t ∧ Faulted s) ∧
    (halted.cfg.legal = true ∧ halted.started = true ∧ halted.cfg.debugTrap = true ∧ Faulted halted) := by
  refine ⟨⟨{ busy smallConfig 10 with faultReg := 0x01, sched := [lineOfInstr .reqResync] },
    { busy smallConfig 10 with faultReg := 0x01, resyncReq := true }, ?_, rfl, by decide⟩, by decide⟩
  have h := busy_inv 10 (by decide)
  exact ⟨h.1, h.2, h.3, h.4, (by decide : 0x01#8 &&& 0xFE#8 = 0x00#8), h.6, h.7, h.8, h.9, h.10, h.11, h.12,
    fun hs => absurd (show true = false from hs) (by decide)⟩

theorem wit_TickDoesNotReadTheFramebuffer : ∃ t, exec .tick (ready resetConfig) = .next t :=
  ⟨_, execTick_ready (by decide) (by decide)⟩

theorem wit_InterruptDomainNeverWritesTheFramebuffer :
    (∃ t, Instr.tick.domain = .interrupt ∧ exec .tick (ready resetConfig) = .next t) ∧
    ∃ t, passTime (ready resetConfig) = .next t :=
  ⟨⟨_, rfl, execTick_ready (by decide) (by decide)⟩, { ready resetConfig with timerCnt := 99 }, rfl⟩

/-- A timer that holds one time unit, and one that holds three, the last of them the tick. -/
theorem wit_TickTimerFiresAfterItsPeriod :
    (∃ t, exec .beginOp State.reset = .next t ∧ t.initStatus = 0x01) ∧
    (∃ s : State, s.timerRunning = true ∧ s.timerCnt.toNat = 2 + 1 ∧ 2 ≤ 2 ∧
      s.sched = List.replicate 2 .timeUnit ++ [.timeUnit]) ∧
    (∃ s : State, s.timerRunning = true ∧ s.timerCnt.toNat = 0 + 1 ∧ s.sched = List.replicate (0 + 1) .timeUnit ++ []) ∧
    ∃ t, exec .tick (ready resetConfig) = .next t :=
  ⟨⟨begun, begin_reset, begun_initStatus⟩,
    ⟨{ ready resetConfig with timerCnt := 3, sched := [.timeUnit, .timeUnit, .timeUnit] }, rfl, by decide, by decide, rfl⟩,
    ⟨{ ready resetConfig with timerCnt := 1, sched := [.timeUnit] }, rfl, by decide, rfl⟩,
    ⟨_, execTick_ready (by decide) (by decide)⟩⟩

theorem wit_FullCycleWeighsThePlanes : ∃ s : State, EventReady s ∧ s.plane.toNat < s.cfg.d ∧ s.cfg.debugTrap = false ∧
    s.sched = List.replicate (16 * s.cfg.d) (lineOfInstr .tick) ++ [] :=
  ⟨{ ready resetConfig with sched := List.replicate 32 (lineOfInstr .tick) ++ [] }, by decide, by decide, rfl, rfl⟩

/-- The first and the last byte of a slice, and one too many; an idle engine. -/
theorem wit_XferByteSendsOneByte :
    (EventReady (busy smallConfig 0) ∧ (busy smallConfig 0).xferBusy = true ∧
      (busy smallConfig 0).xferIdx.toNat < (busy smallConfig 0).xferLen.toNat ∧
      (busy smallConfig 0).xferBase.toNat + (busy smallConfig 0).xferIdx.toNat < (busy smallConfig 0).cfg.memSize) ∧
    (EventReady (busy smallConfig 31) ∧ (busy smallConfig 31).xferBusy = true ∧
      (busy smallConfig 31).xferIdx.toNat < (busy smallConfig 31).xferLen.toNat ∧
      (busy smallConfig 31).xferBase.toNat + (busy smallConfig 31).xferIdx.toNat < (busy smallConfig 31).cfg.memSize) ∧
    (busy smallConfig 32).xferLen.toNat ≤ (busy smallConfig 32).xferIdx.toNat ∧ (ready smallConfig).xferBusy = false :=
  ⟨by decide, by decide, by decide, rfl⟩

theorem wit_XferDoneFreesTheEngine : EventReady (busy smallConfig 32) ∧ (busy smallConfig 32).xferBusy = true ∧
    (busy smallConfig 32).xferIdx = (busy smallConfig 32).xferLen ∧
    (busy smallConfig 31).xferIdx ≠ (busy smallConfig 31).xferLen ∧ (ready smallConfig).xferBusy = false := by decide

theorem wit_TransferSendsTheWholeSlice : ∃ s : State, Inv s ∧ EventReady s ∧ s.xferBusy = true ∧ s.xferIdx = 0 ∧
    s.sched = List.replicate s.xferLen.toNat (lineOfInstr .xferByte) ++ lineOfInstr .xferDone :: [] :=
  ⟨{ busy smallConfig 0 with
      sched := List.replicate (32#32).toNat (lineOfInstr .xferByte) ++ [lineOfInstr .xferDone], budget := none },
    inv_with_moves (busy_inv 0 (by decide)) _ _, by decide, rfl, rfl, rfl⟩

theorem wit_EngineAlwaysHasAStep : Inv (busy smallConfig 32) ∧ EventReady (busy smallConfig 32) ∧
    (busy smallConfig 32).xferBusy = true ∧ Inv (busy smallConfig 31) ∧ EventReady (busy smallConfig 31) :=
  ⟨busy_inv _ (by decide), by decide, rfl, busy_inv _ (by decide), by decide⟩

theorem wit_AddressesCoverTheFramebuffer : resetConfig.legal = true ∧ (1 < resetConfig.halves ∧ 1 < resetConfig.d ∧
    31 < resetConfig.rowSize) ∧ 2047 < resetConfig.memSize ∧ resetConfig.addr 1 1 15 31 = 2047 := by decide

/-- Both kinds of segment, at the line where they meet. -/
theorem wit_MapperFoldsTheSegments : wideConfig.legal = true ∧ 127 < wideConfig.w ∧ 63 < wideConfig.h ∧
    31 / 32 % 2 = 0 ∧ 32 / 32 % 2 = 1 := by decide

theorem wit_MapperStaysInsideThePlane : mapPixel (ready smallConfig).cfg 31 31 = some ⟨511, 1⟩ ∧
    0 < (ready smallConfig).cfg.d := by decide

theorem wit_MapperIsABijection : wideConfig.legal = true ∧ InRange wideConfig 127 63 ∧ 2 < wideConfig.d ∧
    wideConfig.bufSize - 1 < wideConfig.bufSize ∧ slot wideConfig 0 0 0 .red = some (0, 7) := by decide

theorem reqResync_line {s : State} (h : CommandReady s) :
    step { s with sched := [lineOfInstr .reqResync], budget := none } =
      .next { s with sched := [], budget := none, resyncReq := true } := by
  have hd : decode (encode .reqResync) = .ok .reqResync := by decide
  simp only [step, takeMove, runMove, lineOfInstr, Move.upTo, hd, whenLegalWord]
  exact execReqResync_ready (s := { s with sched := [], budget := none }) h

theorem reqResync_keeps {s : State} (h : Inv s) (hc : ControlInv s) (hr : CommandReady s) :
    ∃ u t : State, Inv u ∧ ControlInv u ∧ u.started = true ∧ step u = .next t :=
  ⟨_, _, inv_with_moves h [lineOfInstr .reqResync] none, controlInv_with_moves hc _ _, hr.2.1, reqResync_line hr⟩

/-- A step of a state with both invariants: a request after BEGIN. -/
theorem wit_InvIsKeptByEveryStep : ∃ s t : State, Inv s ∧ ControlInv s ∧ s.started = true ∧ step s = .next t :=
  reqResync_keeps begun_inv begun_controlInv ⟨(by decide : resetConfig.legal = true), rfl, rfl⟩

theorem wit_ControlBitsSurviveEveryStep : ∃ s t : State, Inv s ∧ ControlInv s ∧ step s = .next t :=
  have ⟨s, t, h, hc, _, hs⟩ := wit_InvIsKeptByEveryStep
  ⟨s, t, h, hc, hs⟩

theorem begin_line : step { State.powerOn resetConfig with sched := [lineOfInstr .beginOp] } = exec .beginOp State.reset := by
  have h : decode (encode .beginOp) = .ok .beginOp := by decide
  simp only [step, takeMove, runMove, lineOfInstr, Move.upTo, h, whenLegalWord]
  rfl

theorem wit_ReachableStatesKeepControlBits : Reachable begun ∧ begun.started = true ∧
    (1 < begun.cfg.halves ∧ 1 < begun.cfg.d ∧ 31 < begun.cfg.rowSize) ∧ begun.todo = [] :=
  ⟨.next (.start resetConfig [lineOfInstr .beginOp]) (begin_line.trans begin_reset), rfl,
    (by decide : 1 < resetConfig.halves ∧ 1 < resetConfig.d ∧ 31 < resetConfig.rowSize), rfl⟩

theorem halted_inv : Inv halted :=
  have h := busy_inv 10 (by decide)
  ⟨h.1, h.2, h.3, h.4, (by decide : 0x01#8 &&& 0xFE#8 = 0x00#8),
    fun _ => ⟨(by decide : halted.cfg.legal = true), (by decide : halted.cfg.fits = true)⟩,
    fun _ => (by decide : 0 < halted.cfg.d), h.8, h.9, h.10,
    fun _ => ⟨(by decide : 32 = halted.cfg.rowSize), by decide, (by decide : 0 + 32 ≤ halted.cfg.memSize)⟩, h.12,
    fun hs => absurd (show true = false from hs) (by decide)⟩

theorem wit_OnlyTheDebugTrapFaults : ∃ s : State, Inv s ∧ step s = .fault .debugTrapHalt :=
  ⟨{ halted with sched := [lineOfInstr .tick] }, inv_with_moves halted_inv [lineOfInstr .tick] none, rfl⟩

theorem wit_StatusPortReadsTheRegisters : Inv (ready resetConfig) ∧ (ready resetConfig).cfg.legal = true ∧
    (ready resetConfig).cfg.w < 2 ^ 16 ∧ (ready resetConfig).cfg.h < 2 ^ 16 := ⟨reset_ready_inv, by decide⟩

/-! An endless run whose transfer completes, and one that is halted; nothing but requests follows. -/

/-- The block once the last byte's XFERDONE is taken. -/
def freed : State := { busy smallConfig 32 with xferBusy := false, trace := [.xferDone] }

def completingMoves : Nat → Move
  | 0 => lineOfInstr .xferDone
  | _ + 1 => lineOfInstr .reqResync

def completingStates : Nat → State
  | 0 => busy smallConfig 32
  | 1 => freed
  | _ + 2 => { freed with resyncReq := true }

theorem completing_run : EndlessRun completingMoves completingStates
  | 0 => (rfl : step { busy smallConfig 32 with sched := [lineOfInstr .xferDone] } = .next freed)
  | 1 => (rfl : step { freed with sched := [lineOfInstr .reqResync] } = .next { freed with resyncReq := true })
  | _ + 2 => (rfl : step { freed with resyncReq := true, sched := [lineOfInstr .reqResync] } =
      .next { freed with resyncReq := true })

def haltedMoves (_ : Nat) : Move := lineOfInstr .reqResync

def haltedStates : Nat → State
  | 0 => halted
  | _ + 1 => { halted with resyncReq := true }

theorem halted_run : EndlessRun haltedMoves haltedStates
  | 0 => (rfl : step { halted with sched := [lineOfInstr .reqResync] } = .next { halted with resyncReq := true })
  | _ + 1 => (rfl : step { halted with resyncReq := true, sched := [lineOfInstr .reqResync] } =
      .next { halted with resyncReq := true })

/-- An idle or a halted engine is not enabled. -/
theorem not_engineEnabled {s : State} (h : s.xferBusy = false ∨ s.halted = true) : ¬ EngineEnabled s := by
  rintro (⟨t, h1⟩ | ⟨t, h1⟩)
  · obtain ⟨hr, hb, _⟩ := execXferByte_next h1
    simp [hb, hr.2.2] at h
  · obtain ⟨hr, hb, _⟩ := execXferDone_next h1
    simp [hb, hr.2.2] at h

/-- Where the engine is not enabled from the second state on, it is treated fairly. -/
theorem fair_of_disabled {moves : Nat → Move} {states : Nat → State} (h : ∀ n, ¬ EngineEnabled (states (n + 1))) :
    EngineFair moves states := fun n he => absurd (he (n + 1) (by omega)) (h n)

theorem wit_FairEngineCompletesEveryTransfer :
    (Inv (completingStates 0) ∧ EndlessRun completingMoves completingStates ∧
      EngineFair completingMoves completingStates ∧ (completingStates 0).xferBusy = true) ∧
    (Inv (haltedStates 0) ∧ EndlessRun haltedMoves haltedStates ∧ EngineFair haltedMoves haltedStates ∧
      (haltedStates 0).xferBusy = true) :=
  ⟨⟨busy_inv 32 (by decide), completing_run,
      fair_of_disabled fun n => not_engineEnabled (.inl (by cases n <;> rfl)), rfl⟩,
    ⟨halted_inv, halted_run, fair_of_disabled fun _ => not_engineEnabled (.inr
      (by decide : ({ halted with resyncReq := true } : State).halted = true)), rfl⟩⟩

theorem wit_BeginningsOfEndlessRunsAreListedRuns :
    Takes (completingMoves 0) (completingStates 0) (completingStates 1) ∧
    step { halted with sched := [lineOfInstr .tick] } = .fault .debugTrapHalt ∧
    step { State.reset with sched := [lineOfInstr .tick] } = .refused .notStarted ∧
    EndlessRun completingMoves completingStates := ⟨completing_run 0, rfl, rfl, completing_run⟩

end Sys2Proof.Machine.Tests
end

/-! The statements of 00_scope.md: what a step runs (R7, R9), that it does not see later moves (log 1), that an illegal
configuration has no operation (R5), and that interruptions do not change what a drawing command leaves (R8, R151). -/

namespace Sys2Proof.Machine

/-! ### The step and the moves listed after its own -/

/-- A step with a move listed is that move, run with its budget on the state that lists the others. -/
theorem step_cons (s : State) (m : Move) (rest : List Move) :
    step { s with sched := m :: rest } = runMove m { s with sched := rest, budget := m.upTo } := rfl

/-- A line whose word decodes runs its operation (R9). -/
theorem runMove_line {w : OpWord} {i : Instr} (hd : decode w = .ok i) (n : Option Nat) (s : State) :
    runMove (.line w n) s = exec i s := by
  simp only [runMove, hd, whenLegalWord]

/-- Settles O1. -/
theorem stepRunsTheDecodedLine : Obligations.StepRunsTheDecodedLine := by
  intro s w n rest i hs hd
  calc step s = step { s with sched := .line w n :: rest } := by rw [← hs]
    _ = runMove (.line w n) { s with sched := rest, budget := n } := step_cons s _ rest
    _ = exec i { s with sched := rest, budget := n } := runMove_line hd n _

theorem whenLegalWord_moves (d : Except DecodeError Instr) (s : State) (l : List Move) :
    (whenLegalWord d fun i => exec i { s with sched := l }) = withMoves l (whenLegalWord d fun i => exec i s) := by
  cases d with
  | error e => rfl
  | ok i => exact exec_moves s l i

/-- No move sees the moves still listed. -/
theorem runMove_moves (m : Move) (s : State) (l : List Move) :
    runMove m { s with sched := l } = withMoves l (runMove m s) := by
  cases m with
  | line w n => exact whenLegalWord_moves (decode w) s l
  | port w n => exact whenLegalWord_moves (decodePort w) s l
  | resume n => exact resumeCommand_moves s l
  | timeUnit => exact passTime_moves s l

/-- A step with more moves listed answers what it answers with its own move alone, and leaves the others listed. -/
theorem step_moves (s : State) (m : Move) (rest : List Move) :
    step { s with sched := m :: rest } = withMoves rest (step { s with sched := [m] }) := by
  rw [step_cons, step_cons]
  exact runMove_moves m { s with sched := [], budget := m.upTo } rest

theorem step_of_takes {m : Move} {s t : State} (h : Takes m s t) (rest : List Move) :
    step { s with sched := m :: rest } = .next { t with sched := rest } := by
  rw [step_moves, show step { s with sched := [m] } = .next t from h, withMoves_next]

/-- An endless run without its first move is an endless run. -/
theorem EndlessRun.tail {moves : Nat → Move} {states : Nat → State} (h : EndlessRun moves states) :
    EndlessRun (fun n => moves (n + 1)) fun n => states (n + 1) := fun n => h (n + 1)

/-- The first `n` moves of an endless run, listed, lead to its state `n`. -/
theorem run_of_endlessRun (n : Nat) {moves : Nat → Move} {states : Nat → State} (h : EndlessRun moves states)
    (rest : List Move) :
    core.run n { states 0 with sched := (List.range n).map moves ++ rest } = .next { states n with sched := rest } := by
  induction n generalizing moves states with
  | zero => rfl
  | succ n ih =>
    have hl : (List.range (n + 1)).map moves ++ rest =
        moves 0 :: ((List.range n).map (fun k => moves (k + 1)) ++ rest) := by
      rw [List.range_succ_eq_map, List.map_cons, List.map_map]; rfl
    rw [hl, run_succ n (step_of_takes (h 0) _)]
    exact ih h.tail

/-- Settles O58: a step answers the same with any moves listed after its own; the run of a beginning follows by induction
on its length. -/
theorem beginningsOfEndlessRunsAreListedRuns : Obligations.BeginningsOfEndlessRunsAreListedRuns := by
  refine ⟨fun s t m rest h => step_of_takes h rest, fun s m rest f h => ?_, fun s m rest r h => ?_,
    fun moves states rest n h => run_of_endlessRun n h rest⟩
  · rw [step_moves, h, withMoves_fault]
  · rw [step_moves, h, withMoves_refused]

/-! ### Illegal configurations (R5) -/

/-- Every operation checks the configuration first: BEGIN itself, the others in `whenStarted` (log 15). -/
theorem exec_illegal {s : State} (h : s.cfg.legal = false) (i : Instr) : exec i s = .refused .illegalConfig := by
  cases i <;> exact if_pos h

/-- Settles O15: each way to be illegal contradicts one conjunct of the legal configurations. -/
theorem illegalConfigurationsAreRefused : Obligations.IllegalConfigurationsAreRefused := by
  intro s i h
  refine exec_illegal (Bool.eq_false_iff.2 fun hl => ?_) i
  obtain ⟨hw, hh, hd, hd', hp, hp', hm⟩ := (Config.legal_iff s.cfg).1 hl
  omega

/-! ### Interrupted commands (R8, R151) -/

/-- A step of the interrupt domain leaves the framebuffer and the command in progress alone (R253). -/
theorem exec_interrupt_frame {s t : State} {i : Instr} (hd : i.domain = .interrupt) (h : exec i s = .next t) :
    t.cfg = s.cfg ∧ t.fb = s.fb ∧ t.todo = s.todo := by
  cases i with
  | tick =>
    obtain ⟨_, _, rfl⟩ := execTick_next h
    exact ⟨State.tick_cfg s, State.tick_fb s, State.tick_todo s⟩
  | xferByte =>
    obtain ⟨_, _, _, _, rfl⟩ := execXferByte_next h
    exact ⟨rfl, rfl, rfl⟩
  | xferDone =>
    obtain ⟨_, _, _, rfl⟩ := execXferDone_next h
    exact ⟨rfl, rfl, rfl⟩
  | beginOp | setPixel | fill | reqSwap | reqResync => cases hd

/-- What is left of the command in progress stays inside the framebuffer and, made to its end, leaves `m`. -/
structure WillLeave (m : Memory) (s : State) : Prop where
  inside : ∀ x ∈ s.todo, x.addr < s.cfg.memSize
  leaves : afterAccesses s.todo s.fb = m

/-- Part of a sequence made, the rest still leaves what the whole sequence leaves. -/
theorem goOn_willLeave {s t : State} {todo : List Access} (hi : ∀ x ∈ todo, x.addr < s.cfg.memSize)
    (h : goOn s todo = .next t) : WillLeave (afterAccesses todo s.fb) t := by
  obtain ⟨rest, m, he, hr, ha, _⟩ := goOn_spec s todo hi
  cases he.symm.trans h
  exact ⟨hr, ha⟩

/-- Steps of the interrupt domain and further accesses, in any order, do not change what the command will leave. -/
theorem InterruptedRun.willLeave {s t : State} {m : Memory} (hr : InterruptedRun s t) (h : WillLeave m s) :
    WillLeave m t := by
  induction hr with
  | none s => exact h
  | event i hd he _ ih =>
    obtain ⟨hc, hf, ht⟩ := exec_interrupt_frame hd he
    exact ih ⟨by rw [hc, ht]; exact h.inside, by rw [hf, ht]; exact h.leaves⟩
  | @accesses s _ _ n he _ ih =>
    have hg := goOn_willLeave (s := { s with budget := some n }) h.inside (resumeCommand_next he).2
    exact ih (h.leaves ▸ hg)

/-- With no command in progress, what it will leave is there. -/
theorem WillLeave.fb_eq {m : Memory} {s : State} (h : WillLeave m s) (ht : s.todo = []) : s.fb = m := by
  rw [← h.leaves, ht]; rfl

/-- Resumed with no further event, the command in progress ends and leaves what it will leave. -/
theorem WillLeave.resume {m : Memory} {s : State} (h : WillLeave m s) (ht : s.todo ≠ []) :
    resumeCommand { s with budget := none } = .next { s with budget := none, todo := [], fb := m } := by
  unfold resumeCommand
  rw [if_neg ht, ← h.leaves]
  exact goOn_whole { s with budget := none } s.todo h.inside rfl

/-- An empty sequence makes no access. -/
theorem goOn_nil {s : State} (ht : s.todo = []) : goOn s [] = .next s := by
  rw [goOn, runAccesses_all _ _ [] _ (by simp) (Nat.zero_le _)]
  exact congrArg Host.Outcome.next (by simp [afterAccesses, ← ht])

/-- SETPIXEL and FILL that may run make one access sequence inside the framebuffer, whatever their budget; off the panel it
is empty (R150, R153, R243). -/
theorem exec_drawing {s : State} {i : Instr} (hr : CommandReady s)
    (hi : (∃ x y color, i = .setPixel x y color) ∨ ∃ color, i = .fill color) :
    ∃ todo : List Access, (∀ x ∈ todo, x.addr < s.cfg.memSize) ∧
      ∀ b, exec i { s with budget := b } = goOn { s with budget := b } todo := by
  rcases hi with ⟨x, y, color, rfl⟩ | ⟨color, rfl⟩
  · cases hm : mapPixel s.cfg x y with
    | none =>
      exact ⟨[], by simp, fun b =>
        (execSetPixel_outside (s := { s with budget := b }) color hr hm).trans
          (goOn_nil (s := { s with budget := b }) hr.2.2).symm⟩
    | some m =>
      exact ⟨_, setPixelAccesses_inside s (mapPixel_off_lt hm).1 color, fun b =>
        execSetPixel_ready (s := { s with budget := b }) color hr hm⟩
  · exact ⟨_, fillAccesses_inside s color (by have := Config.rowSize_ge hr.1; omega), fun b =>
      execFill_ready (s := { s with budget := b }) color hr⟩

/-- Settles O24: what the rest of the command will leave is fixed when it begins and kept by every interruption, so it is
what the uninterrupted command leaves. -/
theorem interruptionsDoNotChangeTheFramebuffer : Obligations.InterruptionsDoNotChangeTheFramebuffer := by
  intro s i n hr _ hi
  obtain ⟨todo, hin, hx⟩ := exec_drawing hr hi
  have hu := (hx none).trans (goOn_whole { s with budget := none } todo hin rfl)
  obtain ⟨rest, m, ht, _⟩ := goOn_spec { s with budget := some n } todo hin
  refine ⟨_, _, (hx (some n)).trans ht, hu, fun t' hrun => ?_⟩
  have hw : WillLeave (afterAccesses todo s.fb) t' := hrun.willLeave 
    (goOn_willLeave (s := { s with budget := some n }) hin ht)
  exact ⟨hw.fb_eq, fun hne => ⟨_, hw.resume hne, rfl, rfl⟩⟩

end Sys2Proof.Machine

/-! The statements of 10_state.md: the invariant of the whole state and what rests on it (R22 to R30, R45), the sticky fault
(R29), the request flags (R26), the scan cycle (R24) and the status port (R28). -/

namespace Sys2Proof

/-! ### Periods and slices of a legal configuration -/

/-- A 32-bit register holds a number that fits (R21). -/
theorem toNat_reg32 {n : Nat} (h : n < 2 ^ 32) : (BitVec.ofNat 32 n).toNat = n :=
  (BitVec.toNat_ofNat n 32).trans (Nat.mod_eq_of_lt h)

/-- The period of a plane, by multiplication (R174). -/
theorem Config.period_eq (c : Config) (p : Nat) : c.period p = c.basePeriod * 2 ^ (c.d - 1 - p) :=
  Nat.shiftLeft_eq _ _

theorem Config.basePeriod_le_period (c : Config) (p : Nat) : c.basePeriod ≤ c.period p := by
  rw [Config.period_eq]
  exact Nat.le_mul_of_pos_right _ Nat.one_le_two_pow

/-- Every period fits the 32-bit registers (R5). -/
theorem Config.period_lt {c : Config} (h : c.legal = true) (p : Nat) : c.period p < 2 ^ 32 := by
  obtain ⟨_, _, _, _, _, hmax, _⟩ := (Config.legal_iff c).1 h
  calc c.period p = c.basePeriod * 2 ^ (c.d - 1 - p) := Config.period_eq c p
    _ ≤ c.basePeriod * 2 ^ (c.d - 1) := Nat.mul_le_mul_left _ (Nat.pow_le_pow_right (by decide) (Nat.sub_le _ _))
    _ < 2 ^ 32 := hmax

theorem Config.toNat_period {c : Config} (h : c.legal = true) (p : Nat) :
    (BitVec.ofNat 32 (c.period p)).toNat = c.period p := toNat_reg32 (Config.period_lt h p)

theorem Config.toNat_basePeriod {c : Config} (h : c.legal = true) :
    (BitVec.ofNat 32 c.basePeriod).toNat = c.basePeriod :=
  toNat_reg32 ((Config.basePeriod_le_period c 0).trans_lt (Config.period_lt h 0))

theorem Config.basePeriod_pos {c : Config} (h : c.legal = true) : 1 ≤ c.basePeriod := by
  obtain ⟨_, _, _, _, hb, _⟩ := (Config.legal_iff c).1 h
  exact hb

/-- The planes' periods differ. -/
theorem Config.nodup_periods {c : Config} (h : c.legal = true) : ((List.range c.d).map c.period).Nodup := by
  refine List.Nodup.map_on (fun p hp q hq he => ?_) List.nodup_range
  rw [List.mem_range] at hp hq
  rw [Config.period_eq, Config.period_eq] at he
  have he' := Nat.pow_right_injective le_rfl (Nat.eq_of_mul_eq_mul_left (Config.basePeriod_pos h) he)
  omega

/-- The framebuffer of a block that has its storage fits 32-bit addresses (R5, R122). -/
theorem Config.memSize_le {c : Config} (hl : c.legal = true) (hf : c.fits = true) : c.memSize ≤ 2 ^ 32 := by
  obtain ⟨_, _, _, _, _, _, hm⟩ := (Config.legal_iff c).1 hl
  exact ((Config.fits_iff c).1 hf).trans hm

/-- A slice is shorter than the framebuffer: a plane has 16 of them. -/
theorem Config.rowSize_lt_memSize {c : Config} (h : c.legal = true) : c.rowSize < c.memSize := by
  have hr := Config.rowSize_ge h
  obtain ⟨_, _, hd, _⟩ := (Config.legal_iff c).1 h
  have h1 : 1 * c.planeSize ≤ c.d * c.planeSize := Nat.mul_le_mul_right _ hd
  have h2 : c.d * c.planeSize ≤ c.memSize := c.bufSize_le_memSize
  have h3 : c.planeSize = c.rowSize * 16 := rfl
  omega

end Sys2Proof

namespace Sys2Proof.Machine

/-- The slice at the scan position of the front half ends inside the framebuffer (R61, R176). -/
theorem State.sliceAddr_inside {s : State} (hl : s.cfg.legal = true) (hf : s.cfg.db = false → s.frontSel = false)
    (hp : s.plane.toNat < s.cfg.d) : s.sliceAddr + s.cfg.rowSize ≤ s.cfg.memSize := by
  have hr := Config.rowSize_ge hl
  have hlast : s.cfg.addr s.frontHalf s.plane.toNat s.row.toNat (s.cfg.rowSize - 1) < s.cfg.memSize :=
    Config.addr_lt (State.frontHalf_lt hf) hp s.row.isLt (by omega)
  have he : s.cfg.addr s.frontHalf s.plane.toNat s.row.toNat (s.cfg.rowSize - 1) =
    s.sliceAddr + (s.cfg.rowSize - 1) := rfl
  omega

/-- The successor of a scan position has a plane below the depth (R22, R24). -/
theorem State.advance_plane_lt {s : State} (hp : s.plane.toNat < s.cfg.d) : s.advance.plane.toNat < s.cfg.d := by
  rw [State.advance_plane]
  split_ifs
  · exact Nat.zero_lt_of_lt hp
  · have h4 := s.plane.isLt
    have h1 : (s.plane + 1).toNat ≤ s.plane.toNat + 1 := by
      rw [BitVec.toNat_add]
      exact Nat.mod_le _ _
    omega
  · exact hp

theorem State.tick_plane_lt {s : State} (hp : s.plane.toNat < s.cfg.d) : s.tick.plane.toNat < s.cfg.d := by
  rw [State.tick_plane, ← State.advance_plane]
  exact State.advance_plane_lt hp

/-! ### What a step can do -/

/-- All that a step which answers a next state can do to the rest of the state, its move and its budget being taken. -/
inductive Effect (s : State) : State → Prop where
  /-- Nothing: a pixel off the panel, or an idle time unit. -/
  | idle : Effect s s
  /-- BEGIN, with the storage it needs. -/
  | began (hl : s.cfg.legal = true) (hf : s.cfg.fits = true) (ht : s.todo = []) (hi : s.initStatus = 0x00) :
      Effect s (installStart s)
  /-- BEGIN, without. -/
  | beginFailed (hi : s.initStatus = 0x00) : Effect s { s with initStatus := 0xFF }
  /-- SETPIXEL or FILL, as far as it comes. -/
  | drew {t : State} (todo : List Access) (hr : CommandReady s) (hin : ∀ x ∈ todo, x.addr < s.cfg.memSize)
      (h : goOn s todo = .next t) : Effect s t
  /-- The command in progress, as far as it comes. -/
  | resumed {t : State} (hne : s.todo ≠ []) (h : goOn s s.todo = .next t) : Effect s t
  /-- REQSWAP. -/
  | askedSwap (hr : CommandReady s) : Effect s s.requestSwap
  /-- REQRESYNC. -/
  | askedResync (hr : CommandReady s) : Effect s s.requestResync
  /-- TICK, of the timer or of a line. -/
  | ticked (hr : EventReady s) (hp : s.plane.toNat < s.cfg.d) : Effect s s.tick
  /-- XFERBYTE. -/
  | sent (hr : EventReady s) (hi : s.xferIdx.toNat < s.xferLen.toNat) :
      Effect s { s.emit (.serialByte (s.fb.read s.sendAddr)) with xferIdx := s.xferIdx + 1 }
  /-- XFERDONE. -/
  | completed (hr : EventReady s) : Effect s s.completeTransfer
  /-- A time unit of the running timer that is not its last. -/
  | counted (hrun : s.timerRunning = true) (hc : 1 < s.timerCnt.toNat) :
      Effect s { s with timerCnt := s.timerCnt - 1 }

theorem exec_effect {s t : State} {i : Instr} (h : exec i s = .next t) : Effect s t := by
  cases i with
  | beginOp =>
    obtain ⟨hl, ht, hi, ⟨hf, rfl⟩ | ⟨_, rfl⟩⟩ := execBegin_next h
    · exact .began hl hf ht hi
    · exact .beginFailed hi
  | setPixel x y color =>
    obtain ⟨hr, ⟨_, rfl⟩ | ⟨_, m, _, hoff, _, hgo⟩⟩ := execSetPixel_next h
    · exact .idle
    · exact .drew _ hr (setPixelAccesses_inside s hoff color) hgo
  | fill color =>
    obtain ⟨hr, hgo⟩ := execFill_next h
    exact .drew _ hr (fillAccesses_inside s color (by have := Config.rowSize_ge hr.1; omega)) hgo
  | reqSwap =>
    obtain ⟨hr, rfl⟩ := execReqSwap_next h
    exact .askedSwap hr
  | reqResync =>
    obtain ⟨hr, rfl⟩ := execReqResync_next h
    exact .askedResync hr
  | tick =>
    obtain ⟨hr, hp, rfl⟩ := execTick_next h
    exact .ticked hr hp
  | xferByte =>
    obtain ⟨hr, _, hi, _, rfl⟩ := execXferByte_next h
    exact .sent hr hi
  | xferDone =>
    obtain ⟨hr, _, _, rfl⟩ := execXferDone_next h
    exact .completed hr

theorem passTime_effect {s t : State} (h : passTime s = .next t) : Effect s t := by
  obtain ⟨_, rfl⟩ | ⟨hrun, hc, rfl⟩ | ⟨_, _, htick⟩ := passTime_next h
  · exact .idle
  · exact .counted hrun hc
  · obtain ⟨hr, hp, rfl⟩ := execTick_next htick
    rw [State.tick_of_timerCnt]
    exact .ticked hr hp

/-- A step takes its move off the list, and what it does then is one of the effects. -/
theorem step_effect {s t : State} (h : step s = .next t) :
    ∃ rest budget, Effect { s with sched := rest, budget := budget } t := by
  obtain ⟨_, rest, _, ⟨_, n, _, _, _, he⟩ | ⟨n, _, he⟩ | ⟨_, he⟩⟩ := step_next h
  · exact ⟨rest, n, exec_effect he⟩
  · obtain ⟨hne, hgo⟩ := resumeCommand_next he
    exact ⟨rest, n, .resumed hne hgo⟩
  · exact ⟨rest, none, passTime_effect he⟩

/-! ### The invariant -/

/-- The invariant does not see the moves listed or the budget. -/
theorem Inv.of_moves {s : State} (h : Inv s) (l : List Move) (b : Option Nat) : Inv { s with sched := l, budget := b } :=
  { h with }

/-- Settles O49: before BEGIN nothing is listed, recorded or in flight. -/
theorem invHoldsAtPowerOn : Obligations.InvHoldsAtPowerOn := fun c moves =>
  { fb_wf := ⟨List.Pairwise.nil, fun _ hx => absurd hx List.not_mem_nil⟩
    fb_inside := fun _ hx => absurd hx List.not_mem_nil
    status_value := .inl rfl
    started_iff := (by decide : false = true ↔ (0x00 : Byte) = 0x01)
    fault_high := (by decide : (0x00 : Byte) &&& 0xFE = 0x00)
    config_ok := fun hs => nomatch (show false = true from hs)
    plane_lt := fun hs => nomatch (show false = true from hs)
    timer_running := rfl
    timer_pos := fun hs => nomatch (show false = true from hs)
    single := fun _ => ⟨rfl, rfl⟩
    transfer := fun hb => nomatch (show false = true from hb)
    todo_inside := fun _ hx => absurd hx List.not_mem_nil
    before_start := fun _ => ⟨rfl, rfl, rfl, rfl, rfl, rfl, rfl, rfl, rfl, rfl, rfl, rfl, rfl, rfl, rfl⟩ }

/-- Before the first BEGIN the block is not started (R30). -/
theorem Inv.not_started {s : State} (h : Inv s) (hi : s.initStatus = 0x00) : s.started = false := by
  rw [← Bool.not_eq_true, h.started_iff, hi]
  decide

/-- A command in progress belongs to a started block. -/
theorem Inv.started_of_todo {s : State} (h : Inv s) (hne : s.todo ≠ []) : s.started = true := by
  by_contra hs
  obtain ⟨_, _, _, _, _, _, _, _, _, _, _, _, _, _, htodo⟩ := h.before_start (by simpa using hs)
  exact hne htodo

/-- Accesses inside the framebuffer keep the invariant of a started block. -/
theorem Inv.goOn {s t : State} (h : Inv s) (hs : s.started = true) {todo : List Access}
    (hin : ∀ x ∈ todo, x.addr < s.cfg.memSize) (hgo : goOn s todo = .next t) : Inv t := by
  obtain ⟨rest, m, he, hrest, _, _, hwf, hinside⟩ := goOn_spec s todo hin
  cases he.symm.trans hgo
  exact { h with
    fb_wf := hwf h.fb_wf
    fb_inside := hinside h.fb_inside
    todo_inside := hrest
    before_start := fun hn => nomatch hs.symm.trans hn }

theorem clearedFramebuffer_wf (c : Config) {m : Memory} (h : m.wf) : (clearedFramebuffer c m).wf :=
  Memory.foldl_write_wf (Memory.fillRange_wf h _ _ _) _ _

theorem clearedFramebuffer_inside {c : Config} (hl : c.legal = true) {m : Memory} (h : ∀ x ∈ m, x.1 < c.memSize) :
    ∀ x ∈ clearedFramebuffer c m, x.1 < c.memSize :=
  Memory.foldl_write_inside (Memory.fillRange_inside h _ _ _ (Nat.zero_add _).le) _ _
    (lastBytes_inside (by have := Config.rowSize_ge hl; omega))

/-- A successful BEGIN installs a state with the invariant (R120). -/
theorem Inv.installStart {s : State} (h : Inv s) (hl : s.cfg.legal = true) (hf : s.cfg.fits = true)
    (ht : s.todo = []) : Inv (installStart s) where
  fb_wf := clearedFramebuffer_wf s.cfg h.fb_wf
  fb_inside := clearedFramebuffer_inside hl h.fb_inside
  status_value := .inr (.inl rfl)
  started_iff := ⟨fun _ => rfl, fun _ => rfl⟩
  fault_high := (by decide : (0x00 : Byte) &&& 0xFE = 0x00)
  config_ok := fun _ => ⟨hl, hf⟩
  plane_lt := fun _ => by
    show (BitVec.ofNat 2 (s.cfg.d - 1)).toNat < s.cfg.d
    obtain ⟨_, _, hd, _⟩ := (Config.legal_iff s.cfg).1 hl
    rw [BitVec.toNat_ofNat]
    omega
  timer_running := rfl
  timer_pos := fun _ => (Config.basePeriod_pos hl).trans_eq (Config.toNat_basePeriod hl).symm
  single := fun _ => ⟨rfl, rfl⟩
  transfer := fun hb => nomatch (show false = true from hb)
  todo_inside := fun x hx => absurd (show x ∈ s.todo from hx) (by simp [ht])
  before_start := fun hn => nomatch (show true = false from hn)

/-- A failed BEGIN records the failure and nothing else (R122). -/
theorem Inv.beginFailed {s : State} (h : Inv s) (hi : s.initStatus = 0x00) : Inv { s with initStatus := 0xFF } :=
  { h with
    status_value := .inr (.inr rfl)
    started_iff := by
      show s.started = true ↔ (0xFF : Byte) = 0x01
      rw [h.not_started hi]
      decide }

/-- REQSWAP sets its flag in double-buffer mode only (R25, R157). -/
theorem Inv.requestSwap {s : State} (h : Inv s) (hs : s.started = true) : Inv s.requestSwap := by
  unfold State.requestSwap
  split_ifs with hdb
  · exact { h with
      single := fun hn => nomatch hdb.symm.trans hn
      before_start := fun hn => nomatch hs.symm.trans hn }
  · exact h

theorem Inv.requestResync {s : State} (h : Inv s) (hs : s.started = true) : Inv s.requestResync :=
  { h with before_start := fun hn => nomatch hs.symm.trans hn }

/-- Recording an overlap sets no bit of `FAULT` but bit 0 (R28). -/
theorem or_overlap_high {f : Byte} (h : f &&& 0xFE = 0x00) : (f ||| 0x01) &&& 0xFE = 0x00 := by
  rw [BitVec.and_comm, BitVec.and_or_distrib_left, BitVec.and_comm, h]
  decide

/-- The transfer a tick leaves in flight is the old one, or of the new position's slice, inside the framebuffer (R176). -/
theorem Inv.tick_transfer {s : State} (h : Inv s) (hs : s.started = true) :
    s.tick.xferLen.toNat = s.cfg.rowSize ∧ s.tick.xferIdx.toNat ≤ s.tick.xferLen.toNat ∧
      s.tick.xferBase.toNat + s.tick.xferLen.toNat ≤ s.cfg.memSize := by
  simp only [State.tick_xferLen, State.tick_xferIdx, State.tick_xferBase]
  by_cases hb : s.xferBusy = true
  · simpa only [hb, if_true] using h.transfer hb
  · obtain ⟨hl, hf⟩ := h.config_ok hs
    have hmem := Config.memSize_le hl hf
    have hrow := Config.rowSize_lt_memSize hl
    have hslice : s.boundaryAction.advance.sliceAddr + s.cfg.rowSize ≤ s.cfg.memSize := by
      have hplane := State.advance_plane_lt (s := s.boundaryAction) (by simpa using h.plane_lt hs)
      have hfront : s.cfg.db = false → s.boundaryAction.frontSel = false := fun hdb => by
        simp [hdb, (h.single hdb).1]
      simpa using State.sliceAddr_inside (s := s.boundaryAction.advance) (by simpa using hl)
        (by simpa using hfront) (by simpa using hplane)
    have hlen : (BitVec.ofNat 32 s.cfg.rowSize).toNat = s.cfg.rowSize := toNat_reg32 (by omega)
    have hbase : (BitVec.ofNat 32 s.boundaryAction.advance.sliceAddr).toNat = s.boundaryAction.advance.sliceAddr :=
      toNat_reg32 (by have := Config.rowSize_ge hl; omega)
    rw [if_neg hb, if_neg hb, if_neg hb, hlen, hbase]
    exact ⟨rfl, Nat.zero_le _, hslice⟩

/-- TICK keeps the invariant, whatever the timer holds. -/
theorem Inv.tick {s : State} (h : Inv s) (hs : s.started = true) : Inv s.tick where
  fb_wf := by simpa using h.fb_wf
  fb_inside := by simpa using h.fb_inside
  status_value := by simpa using h.status_value
  started_iff := by simpa using h.started_iff
  fault_high := by
    rw [State.tick_faultReg]
    split_ifs
    · exact or_overlap_high h.fault_high
    · exact h.fault_high
  config_ok := by simpa using h.config_ok
  plane_lt := fun _ => (State.tick_plane_lt (h.plane_lt hs)).trans_eq (congrArg Config.d (State.tick_cfg s).symm)
  timer_running := by simpa using h.timer_running
  timer_pos := fun _ => by
    have hl := (h.config_ok hs).1
    rw [State.tick_timerCnt, Config.toNat_period hl]
    exact (Config.basePeriod_pos hl).trans (Config.basePeriod_le_period _ _)
  single := fun hdb => by
    rw [State.tick_cfg] at hdb
    obtain ⟨hfront, hswap⟩ := h.single hdb
    simp [hdb, hfront, hswap]
  transfer := fun _ => by simpa only [State.tick_cfg] using h.tick_transfer hs
  todo_inside := by simpa using h.todo_inside
  before_start := fun hn => nomatch hs.symm.trans ((State.tick_started s).symm.trans hn)

/-- A byte that may be sent is counted without wrapping, so the count stays at most the length (R204). -/
theorem Inv.sent {s : State} (h : Inv s) (hs : s.started = true) (hi : s.xferIdx.toNat < s.xferLen.toNat) (e : OutEvent) :
    Inv { s.emit e with xferIdx := s.xferIdx + 1 } :=
  { h with
    transfer := fun hb => by
      obtain ⟨hlen, _, hmem⟩ := h.transfer hb
      refine ⟨hlen, ?_, hmem⟩
      show (s.xferIdx + 1).toNat ≤ s.xferLen.toNat
      rw [BitVec.toNat_add]
      exact (Nat.mod_le _ _).trans hi
    before_start := fun hn => nomatch hs.symm.trans hn }

theorem Inv.completeTransfer {s : State} (h : Inv s) (hs : s.started = true) : Inv s.completeTransfer :=
  { h with
    transfer := fun hb => nomatch (show false = true from hb)
    before_start := fun hn => nomatch hs.symm.trans hn }

/-- A time unit that is not the timer's last leaves at least one (R252). -/
theorem Inv.counted {s : State} (h : Inv s) (hrun : s.timerRunning = true) (hc : 1 < s.timerCnt.toNat) :
    Inv { s with timerCnt := s.timerCnt - 1 } :=
  { h with
    timer_pos := fun _ => by
      show 1 ≤ (s.timerCnt - 1).toNat
      have hle : (1 : Reg32) ≤ s.timerCnt := BitVec.le_def.2 hc.le
      rw [BitVec.toNat_sub_of_le hle]
      exact Nat.le_sub_of_add_le hc
    before_start := fun hn => nomatch hrun.symm.trans (h.timer_running.trans hn) }

/-- Every effect of a step keeps the invariant. -/
theorem Effect.inv {s t : State} (he : Effect s t) (h : Inv s) : Inv t := by
  cases he with
  | idle => exact h
  | began hl hf ht _ => exact h.installStart hl hf ht
  | beginFailed hi => exact h.beginFailed hi
  | drew _ hr hin hgo => exact h.goOn hr.2.1 hin hgo
  | resumed hne hgo => exact h.goOn (h.started_of_todo hne) h.todo_inside hgo
  | askedSwap hr => exact h.requestSwap hr.2.1
  | askedResync hr => exact h.requestResync hr.2.1
  | ticked hr _ => exact h.tick hr.2.1
  | sent hr hi => exact h.sent hr.2.1 hi _
  | completed hr => exact h.completeTransfer hr.2.1
  | counted hrun hc => exact h.counted hrun hc

/-- Settles O50: the move taken, the step is one of the effects, and each of them keeps the invariant. -/
theorem invIsKeptByEveryStep : Obligations.InvIsKeptByEveryStep := by
  intro s t h hs
  obtain ⟨rest, budget, he⟩ := step_effect hs
  exact he.inv (h.of_moves rest budget)

/-! ### FRONT_SEL (R27) -/

/-- A BEGIN that runs finds the front selector and the fault register at their power-on values. -/
theorem Inv.power_on_values {s : State} (h : Inv s) (hi : s.initStatus = 0x00) :
    s.frontSel = false ∧ s.faultReg = 0x00 := by
  obtain ⟨_, _, _, _, _, _, _, _, _, _, hfront, hfault, _⟩ := h.before_start (h.not_started hi)
  exact ⟨hfront, hfault⟩

/-- An effect that changes `FRONT_SEL` or `FAULT` is a TICK. -/
theorem Effect.frontSel_faultReg_kept {s t : State} (he : Effect s t) (h : Inv s) :
    (t.frontSel = s.frontSel ∧ t.faultReg = s.faultReg) ∨ t = s.tick := by
  cases he with
  | began _ _ _ hi =>
    obtain ⟨hfront, hfault⟩ := h.power_on_values hi
    exact .inl ⟨hfront.symm, hfault.symm⟩
  | drew _ _ _ hgo | resumed _ hgo =>
    obtain ⟨_, _, _, rfl⟩ := goOn_next hgo
    exact .inl ⟨rfl, rfl⟩
  | askedSwap _ => exact .inl ⟨s.requestSwap_frontSel, s.requestSwap_faultReg⟩
  | ticked _ _ => exact .inr rfl
  | idle | beginFailed _ | askedResync _ | sent _ _ | completed _ | counted _ _ => exact .inl ⟨rfl, rfl⟩

theorem State.atBoundary_iff (s : State) : s.atBoundary = true ↔ s.row = 15 ∧ s.plane.toNat = s.cfg.d - 1 := by
  simp only [State.atBoundary, Bool.and_eq_true, beq_iff_eq]

/-- A tick that changes `FRONT_SEL` is a boundary tick that swaps (R173). -/
theorem State.tick_swaps {s : State} (h : s.tick.frontSel ≠ s.frontSel) :
    s.atBoundary = true ∧ s.resyncReq = false ∧ s.swapReq = true ∧ s.cfg.db = true := by
  rw [State.tick_frontSel] at h
  split_ifs at h with hswap
  · simpa [and_assoc] using hswap
  · exact absurd rfl h

/-- Settles O32: of the effects of a step only a tick changes `FRONT_SEL`, and only one that swaps. -/
theorem frontSelChangesOnlyAtABoundarySwap : Obligations.FrontSelChangesOnlyAtABoundarySwap := by
  intro s t h hs hne
  obtain ⟨rest, budget, he⟩ := step_effect hs
  obtain ⟨hfront, _⟩ | rfl := he.frontSel_faultReg_kept (h.of_moves rest budget)
  · exact absurd hfront hne
  · obtain ⟨hb, hresync, hswap, hdb⟩ := State.tick_swaps hne
    obtain ⟨hrow, hplane⟩ := (State.atBoundary_iff _).1 hb
    refine ⟨hdb, hswap, hresync, hrow, hplane, ?_, ?_, ?_, State.tick_fb _⟩
    · rw [State.tick_swapReq, hb, hresync, hdb, hswap]; rfl
    · rw [State.tick_row, if_pos hrow]
    · rw [State.tick_plane, if_pos hrow, if_pos hplane]

/-! ### FAULT (R29) -/

/-- A tick clears no bit of `FAULT`. -/
theorem State.tick_keeps_fault {s : State} {k : Nat} (h : s.faultReg.getLsbD k = true) :
    s.tick.faultReg.getLsbD k = true := by
  rw [State.tick_faultReg]
  split_ifs
  · rw [BitVec.getLsbD_or, h, Bool.true_or]
  · exact h

/-- In a halted block no event has a step (R202). -/
theorem whenEvent_halted {s : State} (k : State → Result) (hl : s.cfg.legal = true) (hs : s.started = true)
    (hh : s.halted = true) : whenEvent s k = .fault .debugTrapHalt := by
  unfold whenEvent
  rw [whenStarted_ready _ hl hs, if_pos hh]

/-- Every operation of the interrupt domain checks the halt first. -/
theorem exec_interrupt_guarded (s : State) {i : Instr} (hi : i.domain = .interrupt) :
    ∃ k, exec i s = whenEvent s k := by
  cases i with
  | tick => exact ⟨_, (rfl : execTick s = whenEvent s _)⟩
  | xferByte => exact ⟨_, (rfl : execXferByte s = whenEvent s _)⟩
  | xferDone => exact ⟨_, (rfl : execXferDone s = whenEvent s _)⟩
  | beginOp | setPixel | fill | reqSwap | reqResync => cases hi

/-- Settles O35: of the effects of a step only a tick writes `FAULT`, and it only sets a bit; an event checks the
halt first. -/
theorem faultIsSticky : Obligations.FaultIsSticky := by
  refine ⟨fun s t k h hs hk => ?_, fun s i hl hs hd hf hi => ?_⟩
  · obtain ⟨rest, budget, he⟩ := step_effect hs
    obtain ⟨_, hfault⟩ | rfl := he.frontSel_faultReg_kept (h.of_moves rest budget)
    · rw [hfault]; exact hk
    · exact State.tick_keeps_fault hk
  · have hh : s.halted = true := Bool.and_eq_true_iff.2 ⟨hd, hf⟩
    obtain ⟨k, hk⟩ := exec_interrupt_guarded s hi
    rw [hk, whenEvent_halted k hl hs hh]

/-! ### The requests (R26) -/

theorem State.requestSwap_ready {s : State} (h : CommandReady s) : CommandReady s.requestSwap := by
  unfold State.requestSwap
  split_ifs <;> exact h

theorem State.requestSwap_idem (s : State) : s.requestSwap.requestSwap = s.requestSwap := by
  unfold State.requestSwap
  split_ifs <;> rfl

/-- Settles O27: a request leaves the block ready for the same request, which then sets a flag that is set. -/
theorem requestsCoalesce : Obligations.RequestsCoalesce := by
  rintro s t i (rfl | rfl) h
  · obtain ⟨hr, rfl⟩ := execReqSwap_next h
    exact (execReqSwap_ready (State.requestSwap_ready hr)).trans (congrArg _ s.requestSwap_idem)
  · obtain ⟨hr, rfl⟩ := execReqResync_next h
    exact execReqResync_ready (s := s.requestResync) hr

/-! ### The scan cycle (R24, R174) -/

/-- The number of the scan position among the `16 * D` of a cycle (R24). -/
def State.scanIndex (s : State) : Nat := 16 * s.plane.toNat + s.row.toNat

theorem State.scanIndex_lt {s : State} (hp : s.plane.toNat < s.cfg.d) : s.scanIndex < 16 * s.cfg.d := by
  have := s.row.isLt
  unfold State.scanIndex
  omega

theorem State.scanIndex_div (s : State) : s.scanIndex / 16 = s.plane.toNat := by
  have := s.row.isLt
  unfold State.scanIndex
  omega

/-- The scan position is its number. -/
theorem State.position_of_scanIndex {s t : State} (h : s.scanIndex = t.scanIndex) : s.row = t.row ∧ s.plane = t.plane := by
  have hs := s.row.isLt
  have ht := t.row.isLt
  unfold State.scanIndex at h
  exact ⟨BitVec.eq_of_toNat_eq (by omega), BitVec.eq_of_toNat_eq (by omega)⟩

/-- A tick goes to the next position of the cycle (R24). -/
theorem State.tick_scanIndex {s : State} (hd : s.cfg.d ≤ 4) (hp : s.plane.toNat < s.cfg.d) :
    s.tick.scanIndex = (s.scanIndex + 1) % (16 * s.cfg.d) := by
  have hrow := s.row.isLt
  have hmod : s.scanIndex + 1 < 16 * s.cfg.d → (s.scanIndex + 1) % (16 * s.cfg.d) = s.scanIndex + 1 := Nat.mod_eq_of_lt
  unfold State.scanIndex at hmod ⊢
  rw [State.tick_row, State.tick_plane]
  split_ifs with h15 hlast
  · have h15' : s.row.toNat = 15 := by rw [h15]; rfl
    rw [show 16 * s.plane.toNat + s.row.toNat + 1 = 16 * s.cfg.d by omega, Nat.mod_self]
    rfl
  · have hnext : (s.plane + 1).toNat = s.plane.toNat + 1 := by
      rw [BitVec.toNat_add]
      exact Nat.mod_eq_of_lt (by show s.plane.toNat + 1 < 4; omega)
    have h15' : s.row.toNat = 15 := by rw [h15]; rfl
    rw [hmod (by omega), hnext, h15']
    show 16 * (s.plane.toNat + 1) + 0 = _
    omega
  · have h15' : s.row.toNat ≠ 15 := fun h => h15 (BitVec.eq_of_toNat_eq h)
    have hnext : (s.row + 1).toNat = s.row.toNat + 1 := by
      rw [BitVec.toNat_add]
      exact Nat.mod_eq_of_lt (by show s.row.toNat + 1 < 16; omega)
    rw [hmod (by omega), hnext]
    omega

theorem programmedPeriods_append (l r : List OutEvent) :
    programmedPeriods (l ++ r) = programmedPeriods l ++ programmedPeriods r :=
  List.filterMap_append

/-- A release build whose scan position is number `k` of the cycle, counted on over its end. -/
structure Cycling (c : Config) (k : Nat) (s : State) : Prop where
  cfg_eq : s.cfg = c
  legal : c.legal = true
  release : c.debugTrap = false
  started : s.started = true
  plane_lt : s.plane.toNat < c.d
  index : s.scanIndex = k % (16 * c.d)

/-- A release build is never halted, so it is always ready for an event (R29). -/
theorem Cycling.eventReady {c : Config} {k : Nat} {s : State} (h : Cycling c k s) : EventReady s := by
  refine ⟨h.cfg_eq ▸ h.legal, h.started, ?_⟩
  unfold State.halted
  rw [h.cfg_eq, h.release, Bool.false_and]

theorem Cycling.of_moves {c : Config} {k : Nat} {s : State} (h : Cycling c k s) (l : List Move) (b : Option Nat) :
    Cycling c k { s with sched := l, budget := b } :=
  { h with }

/-- A tick goes to the next position and stays in the cycle. -/
theorem Cycling.tick {c : Config} {k : Nat} {s : State} (h : Cycling c k s) : Cycling c (k + 1) s.tick := by
  obtain ⟨rfl, hl, hrel, hs, hp, hi⟩ := h
  obtain ⟨_, _, _, hd, _⟩ := (Config.legal_iff s.cfg).1 hl
  refine ⟨State.tick_cfg s, hl, hrel, (State.tick_started s).trans hs, State.tick_plane_lt hp, ?_⟩
  rw [State.tick_scanIndex hd hp, hi, Nat.mod_add_mod]

/-- The events of a tick hold one period, that of the position it found (R174). -/
theorem Cycling.tick_trace {c : Config} {k : Nat} {s : State} (h : Cycling c k s) :
    ∃ es, s.tick.trace = s.trace ++ es ∧ programmedPeriods es = [c.period (k % (16 * c.d) / 16)] := by
  obtain ⟨rfl, hl, _, _, _, hi⟩ := h
  refine ⟨_, State.tick_trace s, ?_⟩
  rw [← hi, State.scanIndex_div]
  refine Eq.trans ?_ (congrArg (fun n => [n]) (Config.toNat_period hl s.plane.toNat))
  split_ifs <;> rfl

/-- A listed TICK is the six steps, its line taken (R9, R170). -/
theorem Cycling.step_tickLine {c : Config} {k : Nat} {s : State} (h : Cycling c k s) {rest : List Move}
    (hs : s.sched = lineOfInstr .tick :: rest) : step s = .next ({ s with sched := rest, budget := none } : State).tick := by
  have hd : decode (encode .tick) = .ok .tick := by decide
  rw [stepRunsTheDecodedLine s (encode .tick) none rest .tick hs hd]
  exact execTick_ready (h.of_moves rest none).eventReady (by rw [h.cfg_eq]; exact h.plane_lt)

/-- `n` listed TICKs advance the position by `n` and program the periods of the positions they find. -/
theorem Cycling.run {c : Config} (n : Nat) {k : Nat} {s : State} (h : Cycling c k s) (rest : List Move)
    (hs : s.sched = List.replicate n (lineOfInstr .tick) ++ rest) :
    ∃ t es, core.run n s = .next t ∧ Cycling c (k + n) t ∧ t.trace = s.trace ++ es ∧
      programmedPeriods es = (List.range' k n).map fun j => c.period (j % (16 * c.d) / 16) := by
  induction n generalizing k s with
  | zero => exact ⟨s, [], rfl, h, (List.append_nil _).symm, rfl⟩
  | succ n ih =>
    have hm := h.of_moves (List.replicate n (lineOfInstr .tick) ++ rest) none
    obtain ⟨es, htrace, hes⟩ := hm.tick_trace
    obtain ⟨t, es', hrun, ht, htrace', hes'⟩ := ih hm.tick (State.tick_sched _)
    refine ⟨t, es ++ es', (run_succ n (h.step_tickLine hs)).trans hrun, Nat.add_right_comm k 1 n ▸ ht, ?_, ?_⟩
    · rw [htrace', htrace, List.append_assoc]
    · rw [programmedPeriods_append, hes, hes']
      rfl

/-- Over a whole cycle each plane stands 16 times, one for each scan row. -/
theorem map_plane_range_succ {α : Type} (f : Nat → α) (d : Nat) :
    (List.range (16 * (d + 1))).map (fun k => f (k / 16)) =
      (List.range (16 * d)).map (fun k => f (k / 16)) ++ List.replicate 16 (f d) := by
  rw [Nat.mul_succ, List.range_add, List.map_append, List.map_map]
  congr 1
  refine List.eq_replicate_iff.2 ⟨by simp, fun x hx => ?_⟩
  obtain ⟨r, hr, rfl⟩ := List.mem_map.1 hx
  have := List.mem_range.1 hr
  exact congrArg f (by show (16 * d + r) / 16 = d; omega)

theorem sum_map_plane (f : Nat → Nat) (d : Nat) :
    ((List.range (16 * d)).map fun k => f (k / 16)).sum = 16 * ((List.range d).map f).sum := by
  induction d with
  | zero => rfl
  | succ d ih =>
    rw [map_plane_range_succ, List.sum_append, ih, List.range_succ, List.map_append, List.sum_append, Nat.mul_add,
      List.map_singleton, List.sum_singleton, List.sum_replicate, smul_eq_mul]

theorem count_map_plane (f : Nat → Nat) (x d : Nat) :
    ((List.range (16 * d)).map fun k => f (k / 16)).count x = 16 * ((List.range d).map f).count x := by
  induction d with
  | zero => rfl
  | succ d ih =>
    rw [map_plane_range_succ, List.count_append, ih, List.range_succ, List.map_append, List.count_append, Nat.mul_add,
      List.map_singleton, List.count_replicate, List.count_singleton]
    split_ifs <;> rfl

/-- The weights of the planes: half of each other, together `2^D - 1` (R174). -/
theorem sum_weights (b d : Nat) : ((List.range d).map fun p => b * 2 ^ (d - 1 - p)).sum = b * (2 ^ d - 1) := by
  induction d with
  | zero => simp
  | succ d ih =>
    have htail : ((List.range d).map fun p => b * 2 ^ (d + 1 - 1 - (p + 1))) =
        (List.range d).map fun p => b * 2 ^ (d - 1 - p) :=
      List.map_congr_left fun p _ => by rw [show d + 1 - 1 - (p + 1) = d - 1 - p by omega]
    rw [List.range_succ_eq_map, List.map_cons, List.map_map, List.sum_cons]
    refine (congrArg _ ((congrArg List.sum htail).trans ih)).trans ?_
    have := Nat.one_le_two_pow (n := d)
    show b * 2 ^ d + b * (2 ^ d - 1) = b * (2 ^ (d + 1) - 1)
    rw [← Nat.mul_add, Nat.pow_succ]
    congr 1
    omega

/-- A cycle begun anywhere finds the positions of a cycle begun at the first, in another order. -/
theorem perm_cycle (k n : Nat) : ((List.range' k n).map (· % n)).Perm (List.range n) :=
  Multiset.coe_eq_coe.1 <| calc
    (((List.range' k n).map (· % n) : List Nat) : Multiset Nat)
    _ = (Multiset.Ico k (k + n)).map (· % n) := by
      rw [← Multiset.map_coe]
      exact congrArg (fun m => Multiset.map (· % n) (List.range' k m : Multiset Nat)) (Nat.add_sub_cancel_left k n).symm
    _ = Multiset.range n := Nat.multiset_Ico_map_mod k n

/-- The periods of a whole cycle begun anywhere are those of a cycle begun at plane 0, in another order. -/
theorem perm_cycle_periods (c : Config) (k : Nat) :
    ((List.range' k (16 * c.d)).map fun j => c.period (j % (16 * c.d) / 16)).Perm
      ((List.range (16 * c.d)).map fun j => c.period (j / 16)) := by
  have := (perm_cycle k (16 * c.d)).map fun j => c.period (j / 16)
  rwa [List.map_map] at this

/-- Settles O39: after `16 * D` ticks the position is the same modulo `16 * D`, and the periods programmed are those of the
cycle in another order. -/
theorem fullCycleWeighsThePlanes : Obligations.FullCycleWeighsThePlanes := by
  rintro s rest ⟨hl, hst, _⟩ hp hrel hs
  have hlt := State.scanIndex_lt hp
  have h : Cycling s.cfg s.scanIndex s := ⟨rfl, hl, hrel, hst, hp, (Nat.mod_eq_of_lt hlt).symm⟩
  obtain ⟨t, es, hrun, ht, htrace, hes⟩ := h.run _ rest hs
  have hperm := hes ▸ perm_cycle_periods s.cfg s.scanIndex
  have hindex : t.scanIndex = s.scanIndex := by
    rw [ht.index, Nat.add_mod_right, Nat.mod_eq_of_lt hlt]
  obtain ⟨hrow, hplane⟩ := State.position_of_scanIndex hindex
  refine ⟨t, es, hrun, hrow, hplane, htrace, ?_, fun p hpd => ?_⟩
  · rw [hperm.sum_eq, sum_map_plane, List.map_congr_left fun p _ => Config.period_eq s.cfg p, sum_weights, Nat.mul_assoc]
  · rw [← Config.period_eq, hperm.count_eq, count_map_plane,
      List.count_eq_one_of_mem (Config.nodup_periods hl) (List.mem_map_of_mem (List.mem_range.2 hpd))]

/-! ### The status port (R28) -/

/-- A geometry that fits its register reads as it is. -/
theorem toNat_geometryReg {v : Nat} (h : v < 2 ^ 16) : (geometryReg v).toNat = v := by
  unfold geometryReg
  rw [if_pos h, BitVec.toNat_ofNat, Nat.mod_eq_of_lt h]

/-- Masking bits that are 0 changes nothing: `FAULT` reads as it is stored. -/
theorem Inv.readFault {s : State} (h : Inv s) : s.readFault = s.faultReg := by
  have hmask : (0xFE : Byte) ||| 0x01 = BitVec.allOnes 8 := by decide
  calc s.faultReg &&& 0x01
    _ = (s.faultReg &&& 0xFE) ||| (s.faultReg &&& 0x01) := by rw [h.fault_high]; exact BitVec.zero_or.symm
    _ = s.faultReg := by rw [← BitVec.and_or_distrib_left, hmask, BitVec.and_allOnes]

/-- Settles O54: each register is wide enough for its value, and the bits of `FAULT` that do not read are 0. -/
theorem statusPortReadsTheRegisters : Obligations.StatusPortReadsTheRegisters := by
  intro s h hl hw hh
  obtain ⟨_, _, _, hd, _⟩ := (Config.legal_iff s.cfg).1 hl
  have hdepth : s.cfgD.toNat = s.cfg.d :=
    (BitVec.toNat_ofNat _ _).trans (Nat.mod_eq_of_lt (by omega))
  exact ⟨toNat_geometryReg hw, toNat_geometryReg hh, hdepth, rfl, Config.toNat_basePeriod hl, rfl, rfl, rfl, rfl,
    h.readFault⟩

end Sys2Proof.Machine

/-! The statements of 20_memory.md: the layout (R60, R61), the control bits (R63), the bit order on the link (R66), who may
write the framebuffer (R71, R253), the swap (R73) and the only fault (R61, R202). -/

namespace Sys2Proof

/-! ### The layout (R60, R61) -/

/-- Every number below a product is a quotient and a remainder: the step from one level of the layout to the next. -/
theorem exists_digit {n k a : Nat} (h : a < k * n) : ∃ q < k, ∃ r < n, a = q * n + r := by
  have hn : 0 < n := Nat.pos_of_ne_zero fun hz => by simp [hz] at h
  exact ⟨a / n, (Nat.div_lt_iff_lt_mul hn).2 h, a % n, Nat.mod_lt a hn, (Nat.div_add_mod' a n).symm⟩

/-- Every address of the framebuffer is of some byte of some slice of some plane of some half. -/
theorem Config.exists_addr {c : Config} {a : Nat} (ha : a < c.memSize) :
    ∃ h < c.halves, ∃ p < c.d, ∃ r < 16, ∃ i < c.rowSize, c.addr h p r i = a := by
  obtain ⟨h, hh, o, ho, rfl⟩ := exists_digit (ha.trans_eq (Config.memSize_eq c))
  obtain ⟨p, hp, q, hq, rfl⟩ := exists_digit ho
  obtain ⟨r, hr, i, hi, rfl⟩ := exists_digit (hq.trans_eq (Nat.mul_comm c.rowSize 16))
  exact ⟨h, hh, p, hp, r, hr, i, hi, by unfold Config.addr; omega⟩

/-- A byte of a slice lies in its plane of its half. -/
theorem Config.addr_eq_plane (c : Config) (h p r i : Nat) :
    c.addr h p r i = h * c.bufSize + p * c.planeSize + (r * c.rowSize + i) := Nat.add_assoc ..

/-- A byte of one half is no byte of another. -/
theorem Config.addr_outside_half {c : Config} {h h' p r i : Nat} (hne : h ≠ h') (hp : p < c.d) (hr : r < 16)
    (hi : i < c.rowSize) : c.addr h p r i < h' * c.bufSize ∨ h' * c.bufSize + c.bufSize ≤ c.addr h p r i := by
  by_contra hin
  have ho := Config.plane_inside hp (Config.slice_inside hr hi)
  have he : h * c.bufSize + (p * c.planeSize + (r * c.rowSize + i)) =
      h' * c.bufSize + (c.addr h p r i - h' * c.bufSize) := by
    rw [Config.addr_eq_plane] at hin ⊢
    omega
  exact hne (Machine.digit_unique ho (by omega) he).1

end Sys2Proof

namespace Sys2Proof.Machine

/-- Settles O45: an address is decomposed by half, plane, row and byte, and each of the four is determined. -/
theorem addressesCoverTheFramebuffer : Obligations.AddressesCoverTheFramebuffer := by
  refine fun c _ => ⟨fun h p r i => Config.addr_lt, fun a ha => ?_⟩
  obtain ⟨h, hh, p, hp, r, hr, i, hi, rfl⟩ := Config.exists_addr ha
  exact ⟨h, p, r, i, ⟨hh, hp, hr, hi, rfl⟩, fun h' p' r' i' _ hp' hr' hi' he =>
    Config.addr_unique hp' hr' hi' hp hr hi he⟩

/-- Settles O44: the bits of a byte are listed from bit 7 down. -/
theorem serialBitsAreMostSignificantFirst : Obligations.SerialBitsAreMostSignificantFirst :=
  ⟨fun _ => rfl, by decide, by decide⟩

/-! ### The interrupt domain does not write (R71, R253) -/

/-- What belongs to the application is as before, and no request is new. -/
structure LeavesApplication (s t : State) : Prop where
  fb : t.fb = s.fb
  todo : t.todo = s.todo
  cfg : t.cfg = s.cfg
  started : t.started = s.started
  initStatus : t.initStatus = s.initStatus
  timerRunning : t.timerRunning = s.timerRunning
  swapReq : t.swapReq = true → s.swapReq = true
  resyncReq : t.resyncReq = true → s.resyncReq = true

theorem LeavesApplication.tick (s : State) : LeavesApplication s s.tick where
  fb := s.tick_fb
  todo := s.tick_todo
  cfg := s.tick_cfg
  started := s.tick_started
  initStatus := s.tick_initStatus
  timerRunning := s.tick_timerRunning
  swapReq := fun h => (Bool.and_eq_true_iff.1 (s.tick_swapReq ▸ h)).1
  resyncReq := fun h => (Bool.and_eq_true_iff.1 (s.tick_resyncReq ▸ h)).1

theorem exec_leavesApplication {s t : State} {i : Instr} (hd : i.domain = .interrupt) (h : exec i s = .next t) :
    LeavesApplication s t := by
  cases i with
  | tick =>
    obtain ⟨_, _, rfl⟩ := execTick_next h
    exact .tick s
  | xferByte =>
    obtain ⟨_, _, _, _, rfl⟩ := execXferByte_next h
    exact ⟨rfl, rfl, rfl, rfl, rfl, rfl, id, id⟩
  | xferDone =>
    obtain ⟨_, _, _, rfl⟩ := execXferDone_next h
    exact ⟨rfl, rfl, rfl, rfl, rfl, rfl, id, id⟩
  | beginOp | setPixel | fill | reqSwap | reqResync => cases hd

theorem passTime_leavesApplication {s t : State} (h : passTime s = .next t) : LeavesApplication s t := by
  obtain ⟨_, rfl⟩ | ⟨_, _, rfl⟩ | ⟨_, _, htick⟩ := passTime_next h
  · exact ⟨rfl, rfl, rfl, rfl, rfl, rfl, id, id⟩
  · exact ⟨rfl, rfl, rfl, rfl, rfl, rfl, id, id⟩
  · obtain ⟨_, _, rfl⟩ := execTick_next htick
    rw [State.tick_of_timerCnt]
    exact .tick s

/-- Settles O37: every event and every time unit leaves the application's part of the state alone. -/
theorem interruptDomainNeverWritesTheFramebuffer : Obligations.InterruptDomainNeverWritesTheFramebuffer := by
  intro s t h
  obtain ⟨hfb, htodo, hcfg, hstarted, hstatus, hrun, hswap, hresync⟩ : LeavesApplication s t := by
    obtain ⟨i, hd, he⟩ | he := h
    · exact exec_leavesApplication hd he
    · exact passTime_leavesApplication he
  exact ⟨hfb, htodo, hcfg, hstarted, hstatus, hrun, hswap, hresync⟩

/-! ### The swap (R73, R173, R176) -/

/-- With `FRONT_SEL` inverted, the two halves have changed places (R27). -/
theorem State.bases_exchanged {s t : State} (hcfg : t.cfg = s.cfg) (hdb : s.cfg.db = true)
    (hf : t.frontSel = !s.frontSel) : t.frontBase = s.backBase ∧ t.backBase = s.frontBase := by
  unfold State.frontBase State.backBase State.frontHalf State.backHalf
  rw [hcfg, hf, if_pos hdb, if_pos hdb]
  cases s.frontSel <;> exact ⟨rfl, rfl⟩

/-- After a boundary the slice requested is the first one of the front half. -/
theorem State.sliceAddr_after_boundary {s : State} (hb : s.atBoundary = true) :
    s.boundaryAction.advance.sliceAddr = s.boundaryAction.advance.frontBase := by
  obtain ⟨hrow, hplane⟩ := s.atBoundary_iff.1 hb
  simp [State.sliceAddr, hrow, hplane]

theorem State.backBase_lt {s : State} (hl : s.cfg.legal = true) : s.backBase < s.cfg.memSize := by
  have hrow := Config.rowSize_ge hl
  obtain ⟨_, _, hd, _⟩ := (Config.legal_iff s.cfg).1 hl
  have hfirst := Config.plane_inside hd (Config.slice_inside (r := 0) (i := 0) (by decide) (by omega))
  exact s.back_inside (o := 0) (Nat.zero_lt_of_lt hfirst)

/-- Settles O33: the boundary action inverts `FRONT_SEL` before the slice is requested, and the tick writes no byte. -/
theorem swapHandsTheBackHalfToScanOut : Obligations.SwapHandsTheBackHalfToScanOut := by
  intro s h hr hdb hswap hresync hrow hplane hbusy
  have hs : s.started = true := hr.2.1
  obtain ⟨hl, hfits⟩ := h.config_ok hs
  have hb := s.atBoundary_iff.2 ⟨hrow, hplane⟩
  obtain ⟨hfront, hback⟩ := State.bases_exchanged s.tick_cfg hdb (by simp [hb, hresync, hswap, hdb])
  have hslice : s.boundaryAction.advance.sliceAddr = s.backBase :=
    (State.sliceAddr_after_boundary hb).trans
      (State.bases_exchanged (by simp) hdb (by simp [hb, hresync, hswap, hdb])).1
  have hbase : s.tick.xferBase.toNat = s.backBase := by
    rw [State.tick_xferBase, hbusy, hslice]
    exact toNat_reg32 ((State.backBase_lt hl).trans_le (Config.memSize_le hl hfits))
  have hidx : s.tick.xferIdx = 0 := by
    rw [State.tick_xferIdx, hbusy]
    rfl
  exact ⟨s.tick, execTick_ready hr (h.plane_lt hs), hfront, hback, s.tick_fb, s.tick_xferBusy, hbase,
    (h.tick_transfer hs).1, hidx⟩

/-! ### The accesses of SETPIXEL and FILL -/

theorem mem_setPixelAccesses {c : Config} {base : Nat} {m : Place} {color : Color} {x : Access} :
    x ∈ setPixelAccesses c base m color ↔
      ∃ p < c.d, .modify (base + p * c.planeSize + m.off) (keepMask m.grp) (pixelBits color m.grp p) = x := by
  simp only [setPixelAccesses, List.mem_map, List.mem_range]

theorem mem_fillBulk {c : Config} {base : Nat} {color : Color} {x : Access} : x ∈ fillBulk c base color ↔
    ∃ p < c.d, ∃ j < c.planeSize, .store (base + p * c.planeSize + j) (fillByte color p) = x := by
  simp only [fillBulk, List.mem_flatMap, List.mem_map, List.mem_range]

/-- The stamps of a half are at the last bytes of its slices (R153). -/
theorem mem_fillStamps {c : Config} {h : Nat} {x : Access} : x ∈ fillStamps c (h * c.bufSize) ↔
    ∃ p < c.d, ∃ r < 16, .modify (c.addr h p r (c.rowSize - 1)) 0xFF controlMask = x := by
  simp only [fillStamps, List.mem_flatMap, List.mem_map, List.mem_range, Config.addr]

/-- Every access of the sequence is of a byte of half `h`. -/
def WithinHalf (c : Config) (h : Nat) (todo : List Access) : Prop :=
  ∀ x ∈ todo, h * c.bufSize ≤ x.addr ∧ x.addr < h * c.bufSize + c.bufSize

theorem setPixelAccesses_withinHalf {c : Config} (h : Nat) {m : Place} (hm : m.off < c.planeSize) (color : Color) :
    WithinHalf c h (setPixelAccesses c (h * c.bufSize) m color) := by
  intro x hx
  obtain ⟨p, hp, rfl⟩ := mem_setPixelAccesses.1 hx
  have := Config.plane_inside hp hm
  simp only [Access.addr]
  omega

theorem fillAccesses_withinHalf {c : Config} (h : Nat) (hr : 1 ≤ c.rowSize) (color : Color) :
    WithinHalf c h (fillAccesses c (h * c.bufSize) color) := by
  intro x hx
  obtain hx | hx := List.mem_append.1 hx
  · obtain ⟨p, hp, j, hj, rfl⟩ := mem_fillBulk.1 hx
    have := Config.plane_inside hp hj
    simp only [Access.addr]
    omega
  · obtain ⟨p, hp, r, hr', rfl⟩ := mem_fillStamps.1 hx
    have := Config.plane_inside hp (Config.slice_inside hr' (Nat.sub_one_lt_of_lt hr))
    simp only [Access.addr, Config.addr_eq_plane]
    omega

/-- An address outside the half is not accessed. -/
theorem WithinHalf.addr_ne {c : Config} {h a : Nat} {todo : List Access} (hw : WithinHalf c h todo)
    (ha : a < h * c.bufSize ∨ h * c.bufSize + c.bufSize ≤ a) : ∀ x ∈ todo, x.addr ≠ a := fun x hx => by
  have := hw x hx
  omega

/-! ### Commands write the back half (R71) -/

/-- Part of a sequence within the back half leaves every byte outside it. -/
theorem goOn_withinHalf {s t : State} {todo : List Access} (hw : WithinHalf s.cfg s.backHalf todo) (hm : s.fb.wf)
    (h : goOn s todo = .next t) {a : Nat} (ha : a < s.backBase ∨ s.backBase + s.cfg.bufSize ≤ a) :
    t.fb.read a = s.fb.read a := by
  obtain ⟨_, _, he, rfl⟩ := goOn_next h
  exact (runAccesses_other _ _ todo hm he a (hw.addr_ne ha)).1

/-- Settles O29: the sequences of SETPIXEL and FILL stay within the back half, and a request writes no byte. -/
theorem commandsWriteOnlyTheBackHalf : Obligations.CommandsWriteOnlyTheBackHalf := by
  intro s t i hd hne hm h a ha
  cases i with
  | beginOp => exact absurd rfl hne
  | setPixel x y color =>
    obtain ⟨_, ⟨_, rfl⟩ | ⟨_, m, _, hoff, _, hgo⟩⟩ := execSetPixel_next h
    · rfl
    · exact goOn_withinHalf (setPixelAccesses_withinHalf s.backHalf hoff color) hm hgo ha
  | fill color =>
    obtain ⟨⟨hl, _⟩, hgo⟩ := execFill_next h
    have hrow := Config.rowSize_ge hl
    exact goOn_withinHalf (fillAccesses_withinHalf s.backHalf (by omega) color) hm hgo ha
  | reqSwap =>
    obtain ⟨_, rfl⟩ := execReqSwap_next h
    rw [State.requestSwap_fb]
  | reqResync =>
    obtain ⟨_, rfl⟩ := execReqResync_next h
    rfl
  | tick | xferByte | xferDone => cases hd

/-! ### What FILL leaves (R153, R154) -/

/-- Phase 1 leaves the fill byte in every byte of every plane. -/
theorem read_fillBulk {c : Config} {m : Memory} (hm : m.wf) (base : Nat) (color : Color) {p j : Nat} (hp : p < c.d)
    (hj : j < c.planeSize) :
    (afterAccesses (fillBulk c base color) m).read (base + p * c.planeSize + j) = fillByte color p := by
  refine read_afterAccesses_store _ hm _ _ (fun x hx ha => ?_) ⟨_, mem_fillBulk.2 ⟨p, hp, j, hj, rfl⟩, rfl⟩
  obtain ⟨q, _, k, hk, rfl⟩ := mem_fillBulk.1 hx
  have he : base + q * c.planeSize + k = base + p * c.planeSize + j := ha
  obtain ⟨rfl, rfl⟩ := digit_unique hk hj (show q * c.planeSize + k = p * c.planeSize + j by omega)
  rfl

/-- Phase 2 sets the control bits of the last byte of every slice and leaves the other bytes. -/
theorem read_fillStamps {c : Config} {m : Memory} (hm : m.wf) {h p r i : Nat} (hp : p < c.d) (hr : r < 16)
    (hi : i < c.rowSize) :
    (afterAccesses (fillStamps c (h * c.bufSize)) m).read (c.addr h p r i) =
      if i = c.rowSize - 1 then m.read (c.addr h p r i) ||| controlMask else m.read (c.addr h p r i) := by
  split_ifs with hlast
  · subst hlast
    refine (read_afterAccesses_modify _ hm _ 0xFF controlMask (fun x hx ha => ?_)
      ⟨_, mem_fillStamps.2 ⟨p, hp, r, hr, rfl⟩, rfl⟩).trans (congrArg (· ||| controlMask) BitVec.and_allOnes)
    obtain ⟨_, _, _, _, rfl⟩ := mem_fillStamps.1 hx
    exact congrArg (Access.modify · 0xFF controlMask) ha
  · refine read_afterAccesses_other _ hm _ fun x hx ha => ?_
    obtain ⟨q, hq, k, hk, rfl⟩ := mem_fillStamps.1 hx
    obtain ⟨_, _, _, he⟩ := Config.addr_unique hq hk (by omega) hp hr hi ha
    exact hlast he.symm

/-- The whole of a FILL leaves the fill byte in every byte of its half, with the control bits set in the last byte of every
slice. -/
theorem read_fillAccesses {c : Config} {m : Memory} (hm : m.wf) (color : Color) {h p r i : Nat} (hp : p < c.d)
    (hr : r < 16) (hi : i < c.rowSize) :
    (afterAccesses (fillAccesses c (h * c.bufSize) color) m).read (c.addr h p r i) =
      if i = c.rowSize - 1 then fillByte color p ||| controlMask else fillByte color p := by
  have hbulk : (afterAccesses (fillBulk c (h * c.bufSize) color) m).read (c.addr h p r i) = fillByte color p := by
    rw [Config.addr_eq_plane]
    exact read_fillBulk hm _ color hp (Config.slice_inside hr hi)
  unfold fillAccesses
  rw [afterAccesses_append, read_fillStamps (afterAccesses_wf _ hm) hp hr hi, hbulk]

/-! ### The control bits (R63) -/

/-- A fill byte has both control bits clear, and both set once it is stamped (R98, R153). -/
theorem fillByte_control (color : Color) (p : Nat) :
    fillByte color p &&& 0x03 = 0x00 ∧ (fillByte color p ||| controlMask) &&& 0x03 = 0x03 := by
  have key : ∀ t : BitVec 3, (t ++ t ++ (0#2) : Byte) &&& 0x03 = 0x00 ∧
      ((t ++ t ++ (0#2) : Byte) ||| controlMask) &&& 0x03 = 0x03 := by decide
  exact key (triple color p)

/-- A read-modify-write that neither clears nor sets a control bit. -/
def Access.SparesControl : Access → Prop
  | .store _ _ => False
  | .modify _ keep bits => keep &&& 0x03 = 0x03 ∧ bits &&& 0x03 = 0x00

theorem modify_control {v keep bits : Byte} (hk : keep &&& 0x03 = 0x03) (hb : bits &&& 0x03 = 0x00) :
    ((v &&& keep) ||| bits) &&& 0x03 = v &&& 0x03 := by
  calc ((v &&& keep) ||| bits) &&& 0x03
    _ = (v &&& (keep &&& 0x03)) ||| (bits &&& 0x03) := by
      rw [BitVec.and_comm, BitVec.and_or_distrib_left, BitVec.and_comm _ bits, BitVec.and_comm, BitVec.and_assoc]
    _ = v &&& 0x03 := by rw [hk, hb]; exact BitVec.or_zero

/-- SETPIXEL writes the data bits of a byte only (R137, R150). -/
theorem setPixelAccesses_spare (c : Config) (base : Nat) (m : Place) (color : Color) :
    ∀ x ∈ setPixelAccesses c base m color, x.SparesControl := by
  intro x hx
  obtain ⟨p, _, rfl⟩ := mem_setPixelAccesses.1 hx
  have key : ∀ t : BitVec 3,
      (t.setWidth 8 <<< 5) &&& 0x03 = 0x00#8 ∧ (t.setWidth 8 <<< 2) &&& 0x03 = 0x00#8 := by decide
  obtain ⟨h5, h2⟩ := key (triple color p)
  unfold Access.SparesControl keepMask pixelBits tripleShift
  split_ifs
  · exact ⟨by decide, h5⟩
  · exact ⟨by decide, h2⟩

/-- Accesses that spare the control bits leave those of every byte. -/
theorem control_afterAccesses {todo : List Access} (hs : ∀ x ∈ todo, x.SparesControl) {m : Memory} (hm : m.wf)
    (a : Nat) :
    (afterAccesses todo m).read a &&& 0x03 = m.read a &&& 0x03 := by
  induction todo generalizing m with
  | nil => rfl
  | cons x todo ih =>
    have hx := hs x List.mem_cons_self
    cases x with
    | store b v => exact hx.elim
    | modify b keep bits =>
      refine (ih (fun y hy => hs y (List.mem_cons_of_mem _ hy)) (Memory.write_wf _ _ hm)).trans ?_
      rw [Memory.read_write hm]
      split_ifs with hab
      · rw [hab, modify_control hx.1 hx.2]
      · rfl

theorem ControlBits.setPixel {c : Config} {m : Memory} (h : ControlBits c m) (hm : m.wf) (base : Nat) (place : Place)
    (color : Color) : ControlBits c (afterAccesses (setPixelAccesses c base place color) m) :=
  fun half p r i hh hp hr hi =>
    (control_afterAccesses (setPixelAccesses_spare c base place color) hm _).trans (h half p r i hh hp hr hi)

/-- FILL stamps the control bits of the half it fills and does not reach the other. -/
theorem ControlBits.fill {c : Config} {m : Memory} (h : ControlBits c m) (hm : m.wf) (half : Nat) (color : Color) :
    ControlBits c (afterAccesses (fillAccesses c (half * c.bufSize) color) m) := by
  intro half' p r i hh hp hr hi
  by_cases he : half' = half
  · subst he
    obtain ⟨hclear, hset⟩ := fillByte_control color p
    rw [read_fillAccesses hm color hp hr hi]
    unfold controlBitsOf
    split_ifs
    · exact hset
    · exact hclear
  · have hother := (fillAccesses_withinHalf half (by omega) color).addr_ne (Config.addr_outside_half he hp hr hi)
    rw [read_afterAccesses_other _ hm _ hother]
    exact h half' p r i hh hp hr hi

/-- Where a command may run, the control bits hold. -/
theorem ControlInv.bits {s : State} (h : ControlInv s) (hr : CommandReady s) : ControlBits s.cfg s.fb := by
  obtain ⟨_, hs, ht⟩ := hr
  have hb := h hs
  rwa [ht] at hb

theorem ControlInv.of_eq {s t : State} (h : ControlInv s) (hstarted : t.started = s.started) (hcfg : t.cfg = s.cfg)
    (htodo : t.todo = s.todo) (hfb : t.fb = s.fb) : ControlInv t := by
  unfold ControlInv
  rwa [hstarted, hcfg, htodo, hfb]

theorem LeavesApplication.controlInv {s t : State} (hl : LeavesApplication s t) (h : ControlInv s) : ControlInv t :=
  h.of_eq hl.started hl.cfg hl.todo hl.fb

/-- Part of a sequence that ends with the control bits in place leaves a rest that does. -/
theorem goOn_controlInv {s t : State} {todo : List Access} (hin : ∀ x ∈ todo, x.addr < s.cfg.memSize)
    (hb : ControlBits s.cfg (afterAccesses todo s.fb)) (h : goOn s todo = .next t) : ControlInv t := by
  have hleaves := (goOn_willLeave hin h).leaves
  obtain ⟨_, _, _, rfl⟩ := goOn_next h
  exact fun _ => hleaves ▸ hb

theorem exec_controlInv {s t : State} {i : Instr} (h : Inv s) (hc : ControlInv s) (he : exec i s = .next t) :
    ControlInv t := by
  cases i with
  | beginOp =>
    obtain ⟨_, ht, _, ⟨_, rfl⟩ | ⟨_, rfl⟩⟩ := execBegin_next he
    · exact installStart_controlInv h.fb_wf ht
    · exact hc
  | setPixel x y color =>
    obtain ⟨hr, ⟨_, rfl⟩ | ⟨_, m, _, hoff, _, hgo⟩⟩ := execSetPixel_next he
    · exact hc
    · exact goOn_controlInv (setPixelAccesses_inside s hoff color) ((hc.bits hr).setPixel h.fb_wf _ m color) hgo
  | fill color =>
    obtain ⟨hr, hgo⟩ := execFill_next he
    have hrow := Config.rowSize_ge hr.1
    exact goOn_controlInv (fillAccesses_inside s color (by omega)) ((hc.bits hr).fill h.fb_wf s.backHalf color) hgo
  | reqSwap =>
    obtain ⟨_, rfl⟩ := execReqSwap_next he
    exact hc.of_eq s.requestSwap_started s.requestSwap_cfg s.requestSwap_todo s.requestSwap_fb
  | reqResync =>
    obtain ⟨_, rfl⟩ := execReqResync_next he
    exact hc
  | tick | xferByte | xferDone => exact (exec_leavesApplication rfl he).controlInv hc

/-- Settles O51: SETPIXEL spares the control bits, FILL ends by setting them again, BEGIN stamps them, a resumed command
ends where it was to end, and nothing else writes the framebuffer. -/
theorem controlBitsSurviveEveryStep : Obligations.ControlBitsSurviveEveryStep := by
  intro s t h hc hs
  obtain ⟨_, rest, _, ⟨_, n, i, _, _, he⟩ | ⟨n, _, he⟩ | ⟨_, he⟩⟩ := step_next hs
  · exact exec_controlInv (h.of_moves rest n) hc he
  · obtain ⟨hne, hgo⟩ := resumeCommand_next he
    exact goOn_controlInv (s := { s with sched := rest, budget := n }) h.todo_inside (hc (h.started_of_todo hne)) hgo
  · exact (passTime_leavesApplication he).controlInv hc

/-- Both invariants hold in every state of every run. -/
theorem Reachable.inv {s : State} (h : Reachable s) : Inv s ∧ ControlInv s := by
  induction h with
  | start c moves => exact ⟨invHoldsAtPowerOn c moves, fun hs => nomatch (show false = true from hs)⟩
  | next _ hs ih => exact ⟨invIsKeptByEveryStep _ _ ih.1 hs, controlBitsSurviveEveryStep _ _ ih.1 ih.2 hs⟩

/-- Settles O52: a byte that no pending access touches already reads as it will once the command has ended. -/
theorem reachableStatesKeepControlBits : Obligations.ReachableStatesKeepControlBits := by
  intro s hr hs h p r i hh hp hr' hi hother
  obtain ⟨hinv, hc⟩ := hr.inv
  rw [← read_afterAccesses_other s.todo hinv.fb_wf _ hother]
  exact hc hs h p r i hh hp hr' hi

/-! ### The only fault (R61, R202) -/

theorem whenStarted_fault {s : State} {k : State → Result} {f : Fault} (h : whenStarted s k = .fault f) :
    s.cfg.legal = true ∧ s.started = true ∧ k s = .fault f := by
  unfold whenStarted at h
  split_ifs at h with hl hs
  exact ⟨by simpa using hl, by simpa using hs, h⟩

theorem whenCommand_fault {s : State} {k : State → Result} {f : Fault} (h : whenCommand s k = .fault f) :
    CommandReady s ∧ k s = .fault f := by
  obtain ⟨hl, hs, h⟩ := whenStarted_fault h
  split_ifs at h with ht
  exact ⟨⟨hl, hs, not_not.1 ht⟩, h⟩

/-- The fault is the halt of R202, of a halted block. -/
def HaltFault (s : State) (f : Fault) : Prop := f = .debugTrapHalt ∧ s.halted = true

theorem whenEvent_fault {s : State} {k : State → Result} {f : Fault} (h : whenEvent s k = .fault f) :
    HaltFault s f ∨ s.started = true ∧ k s = .fault f := by
  obtain ⟨_, hs, h⟩ := whenStarted_fault h
  split_ifs at h with hh
  · exact .inl ⟨by simpa using h.symm, hh⟩
  · exact .inr ⟨hs, h⟩

/-- A sequence inside the framebuffer never faults. -/
theorem goOn_ne_fault {s : State} {todo : List Access} (hin : ∀ x ∈ todo, x.addr < s.cfg.memSize) (f : Fault) :
    goOn s todo ≠ .fault f := by
  obtain ⟨_, _, hnext, _⟩ := goOn_spec s todo hin
  rw [hnext]
  nofun

/-- SETPIXEL and FILL that may run do not fault: their accesses are inside the framebuffer. -/
theorem exec_drawing_ne_fault {s : State} {i : Instr} (hr : CommandReady s)
    (hi : (∃ x y color, i = .setPixel x y color) ∨ ∃ color, i = .fill color) (f : Fault) : exec i s ≠ .fault f := by
  obtain ⟨todo, hin, hx⟩ := exec_drawing hr hi
  rw [hx s.budget]
  exact goOn_ne_fault hin f

/-- No command faults. -/
theorem exec_command_ne_fault {s : State} {i : Instr} (hd : i.domain = .application) (f : Fault) :
    exec i s ≠ .fault f := by
  intro hf
  cases i with
  | beginOp =>
    unfold exec execBegin at hf
    split_ifs at hf
  | setPixel x y color =>
    obtain ⟨hr, _⟩ := whenCommand_fault (show execSetPixel x y color s = .fault f from hf)
    exact exec_drawing_ne_fault hr (.inl ⟨x, y, color, rfl⟩) f hf
  | fill color =>
    obtain ⟨hr, _⟩ := whenCommand_fault (show execFill color s = .fault f from hf)
    exact exec_drawing_ne_fault hr (.inr ⟨color, rfl⟩) f hf
  | reqSwap => nomatch (whenCommand_fault (show execReqSwap s = .fault f from hf)).2
  | reqResync => nomatch (whenCommand_fault (show execReqResync s = .fault f from hf)).2
  | tick | xferByte | xferDone => cases hd

/-- A TICK at a plane below the depth faults only where the block is halted. -/
theorem execTick_fault {s : State} {f : Fault} (hp : s.started = true → s.plane.toNat < s.cfg.d)
    (h : execTick s = .fault f) : HaltFault s f := by
  obtain hhalt | ⟨hs, h⟩ := whenEvent_fault h
  · exact hhalt
  · rw [if_pos (hp hs)] at h
    nomatch h

/-- The next byte of a transfer in flight is inside the framebuffer (R61, R201). -/
theorem Inv.sendAddr_lt {s : State} (h : Inv s) (hb : s.xferBusy = true) (hi : s.xferIdx.toNat < s.xferLen.toNat) :
    s.sendAddr < s.cfg.memSize := by
  obtain ⟨_, _, hmem⟩ := h.transfer hb
  unfold State.sendAddr
  omega

theorem execXferByte_fault {s : State} {f : Fault} (h : Inv s) (hf : execXferByte s = .fault f) : HaltFault s f := by
  obtain hhalt | ⟨_, hf⟩ := whenEvent_fault hf
  · exact hhalt
  · split_ifs at hf with hb hin
    simp only [Bool.and_eq_true, decide_eq_true_eq] at hb
    exact absurd (h.sendAddr_lt hb.1 hb.2) hin

theorem execXferDone_fault {s : State} {f : Fault} (hf : execXferDone s = .fault f) : HaltFault s f := by
  obtain hhalt | ⟨_, hf⟩ := whenEvent_fault hf
  · exact hhalt
  · split_ifs at hf

theorem exec_fault {s : State} {i : Instr} {f : Fault} (h : Inv s) (hf : exec i s = .fault f) : HaltFault s f := by
  cases i with
  | tick => exact execTick_fault h.plane_lt hf
  | xferByte => exact execXferByte_fault h hf
  | xferDone => exact execXferDone_fault hf
  | beginOp | setPixel | fill | reqSwap | reqResync => exact absurd hf (exec_command_ne_fault rfl f)

theorem resumeCommand_ne_fault {s : State} (h : Inv s) (f : Fault) : resumeCommand s ≠ .fault f := by
  unfold resumeCommand
  split_ifs
  · nofun
  · exact goOn_ne_fault h.todo_inside f

theorem passTime_fault {s : State} {f : Fault} (h : Inv s) (hf : passTime s = .fault f) : HaltFault s f := by
  unfold passTime at hf
  split_ifs at hf
  exact execTick_fault (s := { s with timerCnt := 0 }) h.plane_lt hf

theorem whenLegalWord_fault {d : Except DecodeError Instr} {k : Instr → Result} {f : Fault}
    (h : whenLegalWord d k = .fault f) : ∃ i, k i = .fault f := by
  cases d with
  | error e => nomatch h
  | ok i => exact ⟨i, h⟩

theorem runMove_fault {m : Move} {s : State} {f : Fault} (h : Inv s) (hf : runMove m s = .fault f) : HaltFault s f := by
  cases m with
  | line w n | port w n =>
    obtain ⟨i, hf⟩ := whenLegalWord_fault hf
    exact exec_fault h hf
  | resume n => exact absurd hf (resumeCommand_ne_fault h f)
  | timeUnit => exact passTime_fault h hf

/-- Settles O53: of the moves only an event can fault, and under the invariant only because the block is halted. -/
theorem onlyTheDebugTrapFaults : Obligations.OnlyTheDebugTrapFaults := by
  intro s f h hf
  unfold step takeMove at hf
  cases hs : s.sched with
  | nil =>
    rw [hs] at hf
    nomatch hf
  | cons m rest =>
    rw [hs] at hf
    obtain ⟨hfault, hhalt⟩ := runMove_fault (h.of_moves rest m.upTo) hf
    obtain ⟨htrap, hbit⟩ := Bool.and_eq_true_iff.1 hhalt
    exact ⟨hfault, htrap, hbit⟩

end Sys2Proof.Machine

/-! The statements of 30_encoding.md: the decoder and the encoder are inverse to each other (R90 to R92), the illegal words
(R94), the words of a line and of the command port, and the bits of the one pixel that SETPIXEL writes (R97). -/

namespace Sys2Proof

/-! ### Decoding and encoding (R90 to R92) -/

theorem Instr.wf_setPixel_iff {x y : Int} {color : Color} :
    (Instr.setPixel x y color).wf = true ↔ CoordOk x ∧ CoordOk y := by
  simp only [Instr.wf, Bool.and_eq_true, decide_eq_true_eq]

/-- Settles O9: the decoder reads back the fields of an encoding, and a coordinate comes back from its field. -/
theorem decodeInvertsEncode : Obligations.DecodeInvertsEncode := by
  intro i hwf
  cases i with
  | setPixel x y color =>
    obtain ⟨hx, hy⟩ := Instr.wf_setPixel_iff.1 hwf
    calc decode (encode (.setPixel x y color))
        = .ok (.setPixel (BitVec.ofInt 16 x).toInt (BitVec.ofInt 16 y).toInt color) := decode_packWord ..
      _ = .ok (.setPixel x y color) := by rw [toInt_ofInt_coord hx, toInt_ofInt_coord hy]
  | beginOp | fill | reqSwap | reqResync | tick | xferByte | xferDone => exact decode_packWord ..

/-- A word is five fields packed (R90). -/
theorem exists_packWord (w : OpWord) : ∃ op rsv x y c, packWord op rsv x y c = w :=
  ⟨_, _, _, _, _, packWord_fields w⟩

/-- A word that decodes has its reserved field zero (R94). -/
theorem rsv_eq_zero_of_decode {op : BitVec 4} {rsv : BitVec 12} {x y : BitVec 16} {c : Color} {i : Instr}
    (h : decode (packWord op rsv x y c) = .ok i) : rsv = 0#12 := by
  by_contra hne
  rw [decode_reserved (by rwa [rsvField_packWord])] at h
  nomatch h

/-- What the decoder reads from the fields of a SETPIXEL word is well-formed and has that word (R91). -/
theorem encode_setPixel_fields (x y : BitVec 16) (c : Color) :
    encode (.setPixel x.toInt y.toInt c) = packWord 0x2 0 x y c ∧ (Instr.setPixel x.toInt y.toInt c).wf = true :=
  ⟨by simp only [encode, BitVec.ofInt_toInt], Instr.wf_setPixel_iff.2 ⟨coordOk_toInt x, coordOk_toInt y⟩⟩

/-- Settles O10: a word that decodes has its reserved field zero, and each row of the decoder fixes the fields that are not
operands. -/
theorem encodeInvertsDecode : Obligations.EncodeInvertsDecode := by
  intro w i h
  obtain ⟨op, rsv, x, y, c, rfl⟩ := exists_packWord w
  obtain rfl := rsv_eq_zero_of_decode h
  rw [decode_packWord] at h
  split_ifs at h with hop hz hop hop hz hop hz hop hz hop hz hop hz hop hz
  all_goals
    subst hop
    cases h
  -- Of the rows only SETPIXEL's and FILL's, the second and the third, have operands.
  rotate_left
  · exact encode_setPixel_fields x y c
  · obtain ⟨rfl, rfl⟩ := hz
    exact ⟨rfl, rfl⟩
  all_goals
    obtain ⟨rfl, rfl, rfl⟩ := hz
    exact ⟨rfl, rfl⟩

/-- The words of an operation: its encoding, if it is well-formed, and no other. -/
theorem decode_eq_ok_iff {w : OpWord} {i : Instr} : decode w = .ok i ↔ encode i = w ∧ i.wf = true :=
  ⟨encodeInvertsDecode w i, fun ⟨he, hwf⟩ => he ▸ decodeInvertsEncode i hwf⟩

/-! ### The opcode table and the operands (R91, R92) -/

/-- A row without operands: its mask covers the whole word (R92). -/
theorem decode_eq_ok_iff_masked {i : Instr} (hwf : i.wf = true) (w : OpWord) :
    decode w = .ok i ↔ w &&& 0xFFFFFFFFFFFFFFFF = encode i := by
  rw [decode_eq_ok_iff, show w &&& 0xFFFFFFFFFFFFFFFF = w from BitVec.and_allOnes]
  exact ⟨fun h => h.1.symm, fun h => ⟨h.symm, hwf⟩⟩

/-- SETPIXEL's mask covers OP and RSV (R92). -/
theorem packWord_and_setPixelMask (op : BitVec 4) (rsv : BitVec 12) (x y : BitVec 16) (c : Color) :
    packWord op rsv x y c &&& 0xFFFF000000000000 = packWord op rsv 0#16 0#16 0#16 := by
  calc _ = packWord op rsv x y c &&& packWord (BitVec.allOnes 4) (BitVec.allOnes 12) 0#16 0#16 0#16 := rfl
    _ = _ := by simp only [packWord_and, BitVec.and_allOnes, BitVec.and_zero]

/-- FILL's mask covers every field but COLOR (R92). -/
theorem packWord_and_fillMask (op : BitVec 4) (rsv : BitVec 12) (x y : BitVec 16) (c : Color) :
    packWord op rsv x y c &&& 0xFFFFFFFFFFFF0000 = packWord op rsv x y 0#16 := by
  calc _ = packWord op rsv x y c &&&
          packWord (BitVec.allOnes 4) (BitVec.allOnes 12) (BitVec.allOnes 16) (BitVec.allOnes 16) 0#16 := rfl
    _ = _ := by simp only [packWord_and, BitVec.and_allOnes, BitVec.and_zero]

/-- SETPIXEL's row (R92). -/
theorem decode_setPixel_iff (w : OpWord) : (∃ x y color, decode w = .ok (.setPixel x y color)) ↔
    w &&& 0xFFFF000000000000 = 0x2000000000000000 := by
  obtain ⟨op, rsv, x, y, c, rfl⟩ := exists_packWord w
  rw [packWord_and_setPixelMask]
  constructor
  · rintro ⟨x', y', c', h⟩
    obtain ⟨rfl, rfl, _⟩ := (packWord_inj ..).1 (encodeInvertsDecode _ _ h).1
    rfl
  · intro h
    obtain ⟨rfl, rfl, _⟩ := (packWord_inj op 0x2 rsv 0 0 0 0 0 0 0).1 h
    exact ⟨_, _, _, decode_packWord 0x2 x y c⟩

/-- FILL's row (R92). -/
theorem decode_fill_iff (w : OpWord) : (∃ color, decode w = .ok (.fill color)) ↔
    w &&& 0xFFFFFFFFFFFF0000 = 0x3000000000000000 := by
  obtain ⟨op, rsv, x, y, c, rfl⟩ := exists_packWord w
  rw [packWord_and_fillMask]
  constructor
  · rintro ⟨c', h⟩
    obtain ⟨rfl, rfl, rfl, rfl, _⟩ := (packWord_inj ..).1 (encodeInvertsDecode _ _ h).1
    rfl
  · intro h
    obtain ⟨rfl, rfl, rfl, rfl, _⟩ := (packWord_inj op 0x3 rsv 0 x 0 y 0 0 0).1 h
    exact ⟨_, decode_packWord 0x3 0 0 c⟩

/-- Settles O6: a row's mask picks the fields that are not operands, and its match is its encoding with the operands zero. -/
theorem decoderFollowsTheOpcodeTable : Obligations.DecoderFollowsTheOpcodeTable := by
  intro w
  exact ⟨decode_eq_ok_iff_masked rfl w, decode_setPixel_iff w, decode_fill_iff w, decode_eq_ok_iff_masked rfl w,
    decode_eq_ok_iff_masked rfl w, decode_eq_ok_iff_masked rfl w, decode_eq_ok_iff_masked rfl w,
    decode_eq_ok_iff_masked rfl w⟩

/-- Settles O7: the words written out are a SETPIXEL's and a FILL's fields packed. -/
theorem operandFieldsAreReadAsStated : Obligations.OperandFieldsAreReadAsStated :=
  fun x y color => ⟨decode_packWord 0x2 x y color, decode_packWord 0x3 0 0 color⟩

end Sys2Proof

namespace Sys2Proof.Machine

/-! ### The words of V1 (95_test_vectors.md) -/

/-- Settles O8: sixteen closed words, decoded. -/
theorem specWordsDecode : Obligations.SpecWordsDecode := by
  unfold Obligations.SpecWordsDecode
  decide

/-! ### The illegal words (R94) -/

/-- The illegal words by their fields (R90). -/
theorem illegalWord_packWord {op : BitVec 4} {rsv : BitVec 12} {x y : BitVec 16} {c : Color} :
    IllegalWord (packWord op rsv x y c) ↔
      op ∈ [0x0#4, 0x6#4, 0x7#4, 0xB#4, 0xC#4, 0xD#4, 0xE#4, 0xF#4] ∨ rsv ≠ 0#12 ∨
        (op ≠ 0x2#4 ∧ (x ≠ 0#16 ∨ y ≠ 0#16)) ∨ (op ≠ 0x2#4 ∧ op ≠ 0x3#4 ∧ c ≠ 0#16) := by
  have hop : (packWord op rsv x y c).extractLsb 63 60 = op := opField_packWord ..
  have hrsv : (packWord op rsv x y c).extractLsb 59 48 = rsv := rsvField_packWord ..
  have hx : (packWord op rsv x y c).extractLsb 47 32 = x := xField_packWord ..
  have hy : (packWord op rsv x y c).extractLsb 31 16 = y := yField_packWord ..
  have hc : (packWord op rsv x y c).extractLsb 15 0 = c := colorField_packWord ..
  unfold IllegalWord
  rw [hop, hrsv, hx, hy, hc]
  rfl

/-- The opcodes that R94 does not list are the eight of the operation map (R92). -/
theorem op_assigned : ∀ op : BitVec 4, op ∉ [0x0#4, 0x6#4, 0x7#4, 0xB#4, 0xC#4, 0xD#4, 0xE#4, 0xF#4] →
    op = 0x2 ∨ op = 0x3 ∨ op = 0x1 ∨ op = 0x4 ∨ op = 0x5 ∨ op = 0x8 ∨ op = 0x9 ∨ op = 0xA := by decide

/-- A word that R94 does not call illegal decodes. -/
theorem exists_decode_of_legal {w : OpWord} (h : ¬ IllegalWord w) : ∃ i, decode w = .ok i := by
  obtain ⟨op, rsv, x, y, c, rfl⟩ := exists_packWord w
  rw [illegalWord_packWord] at h
  push Not at h
  obtain ⟨hop, rfl, hxy, hc⟩ := h
  obtain rfl | rfl | rfl | rfl | rfl | rfl | rfl | rfl := op_assigned op hop
  · exact ⟨_, decode_packWord 0x2 x y c⟩
  · obtain ⟨rfl, rfl⟩ := hxy (by decide)
    exact ⟨_, decode_packWord 0x3 0 0 c⟩
  all_goals
    obtain ⟨rfl, rfl⟩ := hxy (by decide)
    obtain rfl := hc (by decide) (by decide)
    exact ⟨_, decode_packWord _ 0 0 0⟩

/-- R94 calls no operation's word illegal. -/
theorem not_illegalWord_encode (i : Instr) : ¬ IllegalWord (encode i) := by
  cases i <;> simp [encode, illegalWord_packWord]

theorem illegalWord_iff {w : OpWord} : IllegalWord w ↔ ∃ e, decode w = .error e := by
  constructor
  · intro h
    cases hd : decode w with
    | error e => exact ⟨e, rfl⟩
    | ok i => exact absurd h ((encodeInvertsDecode w i hd).1 ▸ not_illegalWord_encode i)
  · rintro ⟨e, he⟩
    by_contra h
    obtain ⟨i, hi⟩ := exists_decode_of_legal h
    cases he.symm.trans hi

/-- The event codes are the operations of the interrupt domain (R92, R253). -/
theorem eventWord_encode (i : Instr) : EventWord (encode i) ↔ i.domain = .interrupt := by
  have hop : (encode i).extractLsb 63 60 = opField (encode i) := rfl
  unfold EventWord
  rw [hop]
  cases i <;> simp [encode, Instr.domain]

/-- What the command port makes of a word that decodes (R94). -/
theorem decodePort_of_ok {w : OpWord} {i : Instr} (h : decode w = .ok i) :
    decodePort w = if i.domain = .application then .ok i else .error .eventOnPort := by
  unfold decodePort
  rw [h]

theorem decodePort_of_error {w : OpWord} {e : DecodeError} (h : decode w = .error e) :
    decodePort w = .error e := by
  unfold decodePort
  rw [h]

/-- The command port refuses the illegal words and the event words (R94). -/
theorem illegalWord_or_eventWord_iff {w : OpWord} : IllegalWord w ∨ EventWord w ↔ ∃ e, decodePort w = .error e := by
  cases hd : decode w with
  | error e => exact ⟨fun _ => ⟨e, decodePort_of_error hd⟩, fun _ => .inl (illegalWord_iff.2 ⟨e, hd⟩)⟩
  | ok i =>
    obtain ⟨rfl, _⟩ := decode_eq_ok_iff.1 hd
    rw [eventWord_encode, or_iff_right (not_illegalWord_encode i), decodePort_of_ok hd]
    cases i.domain <;> simp

/-! ### No operation calls its own word illegal -/

theorem whenStarted_ne_illegalWord {s : State} {k : State → Result} {e : DecodeError}
    (h : k s ≠ .refused (.illegalWord e)) : whenStarted s k ≠ .refused (.illegalWord e) := by
  unfold whenStarted
  split_ifs
  · nofun
  · nofun
  · exact h

theorem whenCommand_ne_illegalWord {s : State} {k : State → Result} {e : DecodeError}
    (h : k s ≠ .refused (.illegalWord e)) : whenCommand s k ≠ .refused (.illegalWord e) := by
  refine whenStarted_ne_illegalWord ?_
  split_ifs
  · nofun
  · exact h

theorem whenEvent_ne_illegalWord {s : State} {k : State → Result} {e : DecodeError}
    (h : k s ≠ .refused (.illegalWord e)) : whenEvent s k ≠ .refused (.illegalWord e) := by
  refine whenStarted_ne_illegalWord ?_
  split_ifs
  · nofun
  · exact h

theorem goOn_ne_refused (s : State) (todo : List Access) (r : Refusal) : goOn s todo ≠ .refused r := by
  unfold goOn
  split <;> nofun

/-- The reason "illegal word" is the decoder's alone. -/
theorem exec_ne_illegalWord (i : Instr) (s : State) (e : DecodeError) : exec i s ≠ .refused (.illegalWord e) := by
  cases i with
  | beginOp =>
    simp only [exec, execBegin]
    split_ifs <;> nofun
  | setPixel x y color =>
    unfold exec execSetPixel
    refine whenCommand_ne_illegalWord ?_
    split
    · nofun
    · exact goOn_ne_refused s _ _
  | fill color =>
    unfold exec execFill
    exact whenCommand_ne_illegalWord (goOn_ne_refused s _ _)
  | reqSwap | reqResync =>
    simp only [exec, execReqSwap, execReqResync]
    exact whenCommand_ne_illegalWord nofun
  | tick | xferByte | xferDone =>
    simp only [exec, execTick, execXferByte, execXferDone]
    refine whenEvent_ne_illegalWord ?_
    split_ifs <;> nofun

/-- A move that presents a word is refused as illegal exactly when its decoder rejects the word. -/
theorem whenLegalWord_refused_iff (d : Except DecodeError Instr) (s : State) :
    (∃ e, whenLegalWord d (fun i => exec i s) = .refused (.illegalWord e)) ↔ ∃ e, d = .error e := by
  cases d with
  | error e => exact ⟨fun _ => ⟨e, rfl⟩, fun _ => ⟨e, rfl⟩⟩
  | ok i => exact ⟨fun ⟨e, h⟩ => absurd h (exec_ne_illegalWord i s e), nofun⟩

theorem step_of_sched {s : State} {m : Move} {rest : List Move} (h : s.sched = m :: rest) :
    step s = runMove m { s with sched := rest, budget := m.upTo } := by
  rw [← step_cons, ← h]

/-- Settles O5: a line is refused as illegal when `decode` rejects its word, a command when `decodePort` does. -/
theorem illegalWordsAreRefused : Obligations.IllegalWordsAreRefused := by
  intro s w n rest
  constructor
  · intro hs
    rw [step_of_sched hs, illegalWord_iff]
    exact (whenLegalWord_refused_iff (decode w) _).symm
  · intro hs
    rw [step_of_sched hs, illegalWord_or_eventWord_iff]
    exact (whenLegalWord_refused_iff (decodePort w) _).symm

/-! ### What a word on the command port and a placed table word run -/

/-- Settles O2: the port's decoder passes a command on and rejects an event code. -/
theorem commandPortTakesCommandsOnly : Obligations.CommandPortTakesCommandsOnly := by
  intro s w n rest i hs hd
  have hstep : step s = whenLegalWord (decodePort w) fun i => exec i { s with sched := rest, budget := n } :=
    step_of_sched hs
  rw [hstep, decodePort_of_ok hd]
  constructor
  · intro hc
    rw [if_pos hc]
    rfl
  · intro he
    rw [if_neg (by rw [he]; decide)]
    rfl

/-- A 64-bit word comes back from its number (R95). -/
theorem ofNat_toNat_mod (w : OpWord) : BitVec.ofNat 64 (w.toNat % 2 ^ 64) = w := by
  rw [Nat.mod_eq_of_lt w.isLt, BitVec.ofNat_toNat, BitVec.setWidth_eq]

/-- Settles O3: the number of a word gives the word back, and a line of a well-formed operation's word runs it. -/
theorem fetchedWordRunsItsInstruction : Obligations.FetchedWordRunsItsInstruction := by
  intro i s hwf
  have hd : decode (encode i) = .ok i := decodeInvertsEncode i hwf
  constructor
  · rw [decodeTableWord, if_pos le_rfl, ofNat_toNat_mod, hd]
    rfl
  · calc step (s.withFetchWord 64 (encode i).toNat)
        = step { s with sched := .line (encode i) none :: s.sched } := by
          rw [State.withFetchWord, lineOf, ofNat_toNat_mod]
      _ = exec i { s with budget := none } := stepRunsTheDecodedLine _ _ none _ i rfl hd

/-! ### Different pixels have different places (R138) -/

theorem shiftRight_one (col : Nat) : col >>> 1 = col / 2 := Nat.shiftRight_eq_div_pow col 1

/-- A column pair of the chain is inside one half of a slice: `C` is even (R136). -/
theorem columnPair_lt {c : Config} {col : Nat} (hc : col < c.chain) : col >>> 1 < c.chain / 2 := by
  have heven := c.chain_even
  rw [shiftRight_one]
  omega

/-- A local row is its sub-row and its scan row (R135). -/
theorem localRow_digits (lr : Nat) : subRow lr * 16 + scanRow lr = lr := by
  rw [subRow, scanRow, Nat.shiftRight_eq_div_pow]
  omega

/-- The byte of a column pair is inside the slice, in the first half for sub-row 0 and in the second for sub-row 1 (R136). -/
theorem sliceByte_lt {c : Config} {lr col : Nat} (hl : lr < 32) (hc : col < c.chain) :
    sliceByte c (subRow lr) col < c.rowSize := by
  have heven := c.chain_even
  have hpair := columnPair_lt hc
  have hdigits := localRow_digits lr
  rw [Config.rowSize_eq_chain, sliceByte]
  obtain hu | hu : subRow lr = 0 ∨ subRow lr = 1 := by omega
  all_goals
    rw [hu]
    omega

/-- A place is of one local row and one chain column (R135, R136). -/
theorem placeOf_injective {c : Config} {lr col lr' col' : Nat} (hl : lr < 32) (hc : col < c.chain) (hl' : lr' < 32)
    (hc' : col' < c.chain) (h : placeOf c lr col = placeOf c lr' col') : lr = lr' ∧ col = col' := by
  have hoff : (placeOf c lr col).off = (placeOf c lr' col').off := congrArg Place.off h
  have hgrp : col % 2 = col' % 2 := congrArg Place.grp h
  obtain ⟨hscan, hbyte⟩ := digit_unique (sliceByte_lt hl hc) (sliceByte_lt hl' hc') hoff
  obtain ⟨hsub, hpair⟩ := digit_unique (columnPair_lt hc) (columnPair_lt hc') hbyte
  rw [shiftRight_one, shiftRight_one] at hpair
  exact ⟨by rw [← localRow_digits lr, ← localRow_digits lr', hsub, hscan], by omega⟩

/-- A chain column and a local row are of one pixel of the panel (R132 to R134). -/
theorem fold_injective {c : Config} {x y x' y' : Nat} (hx : x < c.w) (hx' : x' < c.w)
    (hcol : chainColumn c x y = chainColumn c x' y') (hrow : localRow y = localRow y') : x = x' ∧ y = y' := by
  unfold chainColumn at hcol
  rw [Nat.mod_eq_of_lt hx, Nat.mod_eq_of_lt hx'] at hcol
  obtain ⟨hs, hin⟩ : segmentOf y = segmentOf y' ∧
      (if segmentOf y % 2 = 0 then x else c.w - 1 - x) = if segmentOf y' % 2 = 0 then x' else c.w - 1 - x' := by
    refine digit_unique (n := c.w) ?_ ?_ ?_
    · split_ifs <;> omega
    · split_ifs <;> omega
    · split_ifs at hcol ⊢ <;> omega
  unfold localRow at hrow
  rw [← hs] at hin hrow
  have hy : segmentOf y = y / 32 := Nat.shiftRight_eq_div_pow y 5
  have hy' : segmentOf y' = y' / 32 := Nat.shiftRight_eq_div_pow y' 5
  split_ifs at hin hrow <;> omega

/-- The place of a pixel of the panel (R130). -/
theorem mapPixel_inRange {c : Config} {x y : Int} (h : InRange c x y) :
    mapPixel c x y = some (placeOf c (localRow y.toNat) (chainColumn c x.toNat y.toNat)) := if_pos h

/-- Two pixels of the panel with one place are one pixel (R138). -/
theorem mapPixel_injective {c : Config} {x y x' y' : Int} (h : InRange c x y) (h' : InRange c x' y')
    (he : mapPixel c x y = mapPixel c x' y') : x = x' ∧ y = y' := by
  rw [mapPixel_inRange h, mapPixel_inRange h', Option.some.injEq] at he
  obtain ⟨hx, hxw, hy, hyh⟩ := h
  obtain ⟨hx', hxw', hy', hyh'⟩ := h'
  obtain ⟨hrow, hcol⟩ := placeOf_injective (localRow_lt _) (chainColumn_lt (by omega) (by omega)) (localRow_lt _)
    (chainColumn_lt (by omega) (by omega)) he
  obtain ⟨hxe, hye⟩ := fold_injective (c := c) (by omega) (by omega) hcol hrow
  exact ⟨by omega, by omega⟩

theorem Place.eq_iff {m m' : Place} : m = m' ↔ m.off = m'.off ∧ m.grp = m'.grp := by
  cases m
  cases m'
  exact Place.mk.injEq .. ▸ Iff.rfl

/-- Two pixels of the panel are one exactly when their places agree (R138). -/
theorem samePixel_iff {c : Config} {x y x' y' : Int} {m m' : Place} (h : InRange c x y) (h' : InRange c x' y')
    (hm : mapPixel c x y = some m) (hm' : mapPixel c x' y' = some m') :
    x' = x ∧ y' = y ↔ m'.off = m.off ∧ m'.grp = m.grp := by
  rw [← Place.eq_iff]
  constructor
  · rintro ⟨rfl, rfl⟩
    exact Option.some.inj (hm'.symm.trans hm)
  · rintro rfl
    exact mapPixel_injective h' h (hm'.trans hm.symm)

/-! ### SETPIXEL writes the three bits of its pixel (R97, R150) -/

/-- What a whole SETPIXEL leaves in each byte of a plane: only the byte of its place is modified (R150). -/
theorem read_setPixelAccesses {c : Config} {m : Memory} (hm : m.wf) (base : Nat) {place : Place}
    (hplace : place.off < c.planeSize) (color : Color) {p o : Nat} (hp : p < c.d) (ho : o < c.planeSize) :
    (afterAccesses (setPixelAccesses c base place color) m).read (base + p * c.planeSize + o) =
      if o = place.off then
        (m.read (base + p * c.planeSize + o) &&& keepMask place.grp) ||| pixelBits color place.grp p
      else m.read (base + p * c.planeSize + o) := by
  have hplane : ∀ q, base + q * c.planeSize + place.off = base + p * c.planeSize + o → q = p ∧ place.off = o :=
    fun q he => digit_unique hplace ho (by omega)
  split_ifs with hoff
  · subst hoff
    refine read_afterAccesses_modify _ hm _ _ _ (fun a ha he => ?_) ⟨_, mem_setPixelAccesses.2 ⟨p, hp, rfl⟩, rfl⟩
    obtain ⟨q, _, rfl⟩ := mem_setPixelAccesses.1 ha
    obtain ⟨rfl, _⟩ := hplane q he
    rfl
  · refine read_afterAccesses_other _ hm _ fun a ha he => hoff ?_
    obtain ⟨q, _, rfl⟩ := mem_setPixelAccesses.1 ha
    exact (hplane q he).2.symm

/-- The mask keeps the bits of the other triple and none of its own (R150). -/
theorem keepMask_bitPos {grp grp' : Nat} (hg : grp < 2) (hg' : grp' < 2) (ch : Channel) :
    (keepMask grp).getLsbD (bitPos grp' ch) = decide (grp' ≠ grp) := by
  interval_cases grp <;> interval_cases grp' <;> cases ch <;> decide

/-- The bits of three channels moved to triple `k`: each at its own position there, none at the other triple's. -/
theorem triple_bitPos : ∀ r g b : Bool, ∀ k < 2, ∀ k' < 2,
    let moved : Byte := (BitVec.ofBool r ++ BitVec.ofBool g ++ BitVec.ofBool b).setWidth 8 <<< tripleShift k
    moved.getLsbD (bitPos k' .red) = (decide (k' = k) && r) ∧
      moved.getLsbD (bitPos k' .green) = (decide (k' = k) && g) ∧
      moved.getLsbD (bitPos k' .blue) = (decide (k' = k) && b) := by decide

/-- The bits written are the plane's bits of the three channels, in their own triple (R97, R136, R150). -/
theorem pixelBits_bitPos {grp grp' : Nat} (hg : grp < 2) (hg' : grp' < 2) (color : Color) (p : Nat) (ch : Channel) :
    (pixelBits color grp p).getLsbD (bitPos grp' ch) =
      (decide (grp' = grp) && bitval (channelValue color ch) p) := by
  obtain ⟨hred, hgreen, hblue⟩ := triple_bitPos (bitval (channelValue color .red) p)
    (bitval (channelValue color .green) p) (bitval (channelValue color .blue) p) grp hg grp' hg'
  cases ch with
  | red => exact hred
  | green => exact hgreen
  | blue => exact hblue

/-- A modified byte holds the colour's bit at the positions of the triple written, and its old bit at the others. -/
theorem modified_bit {grp grp' : Nat} (hg : grp < 2) (hg' : grp' < 2) (v : Byte) (color : Color) (p : Nat)
    (ch : Channel) : ((v &&& keepMask grp) ||| pixelBits color grp p).getLsbD (bitPos grp' ch) =
      if grp' = grp then bitval (channelValue color ch) p else v.getLsbD (bitPos grp' ch) := by
  rw [BitVec.getLsbD_or, BitVec.getLsbD_and, keepMask_bitPos hg hg', pixelBits_bitPos hg hg']
  by_cases h : grp' = grp <;> simp [h]

/-- The plane's bits of the channels are the colour's bits `c[15-p]`, `c[10-p]`, `c[4-p]` (R97). -/
theorem bitval_channelValue (color : Color) {p : Nat} (hp : p < 4) :
    bitval (channelValue color .red) p = color.getLsbD (15 - p) ∧
      bitval (channelValue color .green) p = color.getLsbD (10 - p) ∧
      bitval (channelValue color .blue) p = color.getLsbD (4 - p) := by
  interval_cases p <;> simp [bitval, channelValue]

/-- The slot of a channel of a pixel, by the pixel's place (R130). -/
theorem slot_eq_some {c : Config} {x y : Int} {p o b : Nat} {ch : Channel} (h : slot c x y p ch = some (o, b)) :
    ∃ m, mapPixel c x y = some m ∧ m.off < c.planeSize ∧ m.grp < 2 ∧ p * c.planeSize + m.off = o ∧
      bitPos m.grp ch = b := by
  unfold slot at h
  cases hm : mapPixel c x y with
  | none =>
    rw [hm] at h
    nomatch h
  | some m =>
    rw [hm] at h
    obtain ⟨hoff, hgrp⟩ := mapPixel_off_lt hm
    cases h
    exact ⟨m, rfl, hoff, hgrp, rfl, rfl⟩

/-- Settles O20: in the byte of a slot only the bits of the place that SETPIXEL writes change, and two pixels of the panel
have the same place only if they are one. -/
theorem setPixelChangesOnePixelOnly : Obligations.SetPixelChangesOnePixelOnly := by
  intro s t x y color hr hb hm hin he x' y' p ch o b hin' hp hslot
  obtain ⟨_, ⟨hout, _⟩ | ⟨_, place, hplace, hoff, hgrp, hgo⟩⟩ := execSetPixel_next he
  · exact absurd hin hout
  cases (goOn_whole s _ (setPixelAccesses_inside s hoff color) hb).symm.trans hgo
  obtain ⟨place', hplace', hoff', hgrp', rfl, rfl⟩ := slot_eq_some hslot
  obtain ⟨_, _, _, hd, _⟩ := (Config.legal_iff s.cfg).1 hr.1
  have hsame := samePixel_iff hin hin' hplace hplace'
  rw [← Nat.add_assoc, read_setPixelAccesses hm s.backBase hoff color hp hoff']
  by_cases ho : place'.off = place.off
  · rw [if_pos ho, modified_bit hgrp hgrp']
    refine if_congr (by rw [hsame, and_iff_right ho]) ?_ rfl
    obtain ⟨hred, hgreen, hblue⟩ := bitval_channelValue color (show p < 4 by omega)
    cases ch with
    | red => exact hred
    | green => exact hgreen
    | blue => exact hblue
  · rw [if_neg ho, if_neg fun h => ho (hsame.1 h).1]

end Sys2Proof.Machine

/-! The statements of 40_lifecycle.md: what BEGIN installs (R120 to R122), that it runs once (R123) and that nothing else runs
before it (R124). -/

namespace Sys2Proof.Machine

/-! ### BEGIN (R120, R122, R123) -/

/-- Under a legal configuration and with no command in progress, a BEGIN that has not run before installs the start state
if the storage exists, and else records the failure. -/
theorem execBegin_first {s : State} (hl : s.cfg.legal = true) (ht : s.todo = []) (hi : s.initStatus = 0x00) :
    execBegin s = .next (if s.cfg.fits then installStart s else s.raise .allocFail) := by
  unfold execBegin
  rw [if_neg (by simp [hl]), if_neg (by simp [ht]), if_neg (by simp [hi]), apply_ite Host.Outcome.next]

/-- BEGIN writes no byte at or above `mem_size` (R61, R120). -/
theorem read_clearedFramebuffer_outside {c : Config} (hl : c.legal = true) {m : Memory} (hm : m.wf) {a : Nat}
    (ha : c.memSize ≤ a) : (clearedFramebuffer c m).read a = m.read a := by
  have hlast : a ∉ lastBytes c := fun h => by
    have := lastBytes_inside (by have := Config.rowSize_ge hl; omega) a h
    omega
  unfold clearedFramebuffer
  rw [Memory.read_foldl_write (Memory.fillRange_wf hm _ _ _), if_neg hlast, Memory.read_fillRange hm, if_neg (by omega)]

/-- BEGIN leaves `0x03` in the last byte of every slice and `0x00` in the others (R120). -/
theorem read_clearedFramebuffer_addr {c : Config} {m : Memory} (hm : m.wf) {h p r i : Nat} (hh : h < c.halves)
    (hp : p < c.d) (hr : r < 16) (hi : i < c.rowSize) :
    (clearedFramebuffer c m).read (c.addr h p r i) = if i = c.rowSize - 1 then 0x03 else 0x00 :=
  (read_clearedFramebuffer c hm _ (Config.addr_lt hh hp hr hi)).trans (if_congr (addr_mem_lastBytes hh hp hr hi) rfl rfl)

/-- Settles O12: the two outcomes of a first BEGIN, and the bytes that its two loops leave. -/
theorem beginInstallsTheStartState : Obligations.BeginInstallsTheStartState := by
  intro s hl ht hi hm
  have hbegin : exec .beginOp s = _ := execBegin_first hl ht hi
  constructor
  · intro hsize
    rw [hbegin, if_neg (by rw [Config.fits_iff]; omega)]
    rfl
  · intro hsize
    rw [hbegin, if_pos ((Config.fits_iff s.cfg).2 hsize)]
    exact ⟨clearedFramebuffer s.cfg s.fb, rfl, clearedFramebuffer_wf s.cfg hm,
      fun _ _ _ _ hh hp hr hi => read_clearedFramebuffer_addr hm hh hp hr hi,
      fun _ ha => read_clearedFramebuffer_outside hl hm ha⟩

/-- Settles O13: the first two checks of BEGIN pass and the third is the one that fails. -/
theorem beginRunsOnce : Obligations.BeginRunsOnce := by
  intro s hl ht hi
  show execBegin s = _
  unfold execBegin
  rw [if_neg (by simp [hl]), if_neg (by simp [ht]), if_pos hi]

/-! ### Before BEGIN (R124) -/

/-- Before a successful BEGIN the guard refuses whatever it guards (R124). -/
theorem whenStarted_notStarted {s : State} (k : State → Result) (hl : s.cfg.legal = true) (hs : s.started = false) :
    whenStarted s k = .refused .notStarted := by
  unfold whenStarted
  rw [if_neg (by simp [hl]), if_pos hs]

/-- Before a successful BEGIN no command starts: the commands check `STARTED` through `whenStarted`. -/
theorem whenCommand_notStarted {s : State} (k : State → Result) (hl : s.cfg.legal = true) (hs : s.started = false) :
    whenCommand s k = .refused .notStarted := whenStarted_notStarted _ hl hs

/-- Before a successful BEGIN no event occurs: the events check `STARTED` through `whenStarted`. -/
theorem whenEvent_notStarted {s : State} (k : State → Result) (hl : s.cfg.legal = true) (hs : s.started = false) :
    whenEvent s k = .refused .notStarted := whenStarted_notStarted _ hl hs

/-- Before a successful BEGIN the timer is stopped and no transfer is in flight (R45, R122). -/
theorem Inv.idle_before_start {s : State} (h : Inv s) (hs : s.started = false) :
    s.timerRunning = false ∧ s.xferBusy = false := by
  obtain ⟨_, _, _, _, _, _, _, _, hbusy, _⟩ := h.before_start hs
  exact ⟨h.timer_running.trans hs, hbusy⟩

/-- Settles O14: every operation but BEGIN is a guarded command or a guarded event, and the invariant says what is idle. -/
theorem nothingRunsBeforeBegin : Obligations.NothingRunsBeforeBegin := by
  intro s hl hs
  refine ⟨fun i hi => ?_, fun h => h.idle_before_start hs⟩
  cases i with
  | beginOp => exact absurd rfl hi
  | setPixel | fill | reqSwap | reqResync =>
    simp only [exec, execSetPixel, execFill, execReqSwap, execReqResync, whenCommand_notStarted _ hl hs]
  | tick | xferByte | xferDone =>
    simp only [exec, execTick, execXferByte, execXferDone, whenEvent_notStarted _ hl hs]

end Sys2Proof.Machine

/-! The statements of 41_address_mapper.md: the fold (R132 to R136), its range (R137), that it is a bijection onto the data
bits of a half (R138), and the pixels outside the panel (R131). -/

namespace Sys2Proof.Machine

/-! ### Outside the panel (R131, R243) -/

/-- Settles O19: a pixel past one of the four edges has no place, and SETPIXEL of a pixel without a place does nothing. -/
theorem setPixelOutOfRangeDoesNothing : Obligations.SetPixelOutOfRangeDoesNothing := by
  intro s x y color hr hout
  have hnot : ¬ InRange s.cfg x y := by
    rintro ⟨hx, hxw, hy, hyh⟩
    omega
  exact execSetPixel_outside color hr (if_neg hnot)

/-! ### The range of the mapper (R137) -/

/-- Settles O47: the place is inside its plane, and so inside the back half in every plane. -/
theorem mapperStaysInsideThePlane : Obligations.MapperStaysInsideThePlane := by
  intro s x y m hm
  obtain ⟨hoff, _⟩ := mapPixel_off_lt hm
  refine ⟨hoff, bitPos_range m.grp, fun p hp => ?_⟩
  rw [Nat.add_assoc]
  exact s.back_inside (Config.plane_inside hp hoff)

/-! ### The fold by division and remainder (R132 to R136) -/

theorem segmentOf_eq_div (y : Nat) : segmentOf y = y / 32 := Nat.shiftRight_eq_div_pow y 5

/-- An even segment is not mirrored (R133). -/
theorem fold_even {c : Config} {x y : Nat} (hx : x < c.w) (h : y / 32 % 2 = 0) :
    localRow y = y % 32 ∧ chainColumn c x y = x + y / 32 * c.w := by
  rw [localRow, chainColumn, segmentOf_eq_div, if_pos h, if_pos h, Nat.mod_eq_of_lt hx]
  exact ⟨rfl, rfl⟩

/-- An odd segment is mirrored in both directions (R134). -/
theorem fold_odd {c : Config} {x y : Nat} (hx : x < c.w) (h : y / 32 % 2 = 1) :
    localRow y = 31 - y % 32 ∧ chainColumn c x y = c.w - 1 - x + y / 32 * c.w := by
  have hne : ¬ y / 32 % 2 = 0 := by omega
  rw [localRow, chainColumn, segmentOf_eq_div, if_neg hne, if_neg hne, Nat.mod_eq_of_lt hx]
  exact ⟨rfl, rfl⟩

/-- The place of a row and a column, by division and remainder (R135, R136). -/
theorem placeOf_eq_div (c : Config) (lr col : Nat) :
    placeOf c lr col = ⟨lr % 16 * c.rowSize + (lr / 16 * (c.chain / 2) + col / 2), col % 2⟩ := by
  rw [placeOf, scanRow, sliceByte, subRow, shiftRight_one, Nat.shiftRight_eq_div_pow lr 4]

/-- The place of a pixel of the panel, its coordinates natural numbers (R130). -/
theorem mapPixel_natCast {c : Config} {x y : Nat} (hx : x < c.w) (hy : y < c.h) :
    mapPixel c x y = some (placeOf c (localRow y) (chainColumn c x y)) :=
  mapPixel_inRange ⟨by omega, by omega, by omega, by omega⟩

/-- Settles O46: the place of the row and column that the fold of an even or an odd segment gives. -/
theorem mapperFoldsTheSegments : Obligations.MapperFoldsTheSegments := by
  refine ⟨fun c x y _ hx hy => ⟨fun h => ?_, fun h => ?_⟩, rfl, rfl, rfl, rfl, rfl, rfl⟩
  · obtain ⟨hrow, hcol⟩ := fold_even hx h
    rw [mapPixel_natCast hx hy, hrow, hcol, placeOf_eq_div]
  · obtain ⟨hrow, hcol⟩ := fold_odd hx h
    rw [mapPixel_natCast hx hy, hrow, hcol, placeOf_eq_div]

/-! ### Every data bit is the slot of one pixel, plane and channel (R138) -/

/-- Every byte of a plane and every bit triple is the place of a local row and a chain column (R135, R136). -/
theorem exists_placeOf {c : Config} {off grp : Nat} (hoff : off < c.planeSize) (hgrp : grp < 2) :
    ∃ lr < 32, ∃ col < c.chain, placeOf c lr col = ⟨off, grp⟩ := by
  obtain ⟨r, hr, i, hi, rfl⟩ := exists_digit (hoff.trans_eq (Nat.mul_comm c.rowSize 16))
  obtain ⟨u, hu, k, hk, rfl⟩ := exists_digit (hi.trans_eq c.chain_even.symm)
  refine ⟨u * 16 + r, by omega, 2 * k + grp, by omega, ?_⟩
  rw [placeOf_eq_div, show (u * 16 + r) % 16 = r by omega, show (u * 16 + r) / 16 = u by omega,
    show (2 * k + grp) / 2 = k by omega, show (2 * k + grp) % 2 = grp by omega]

/-- Every local row and chain column are those of a pixel of the panel (R132 to R134). -/
theorem exists_fold {c : Config} {lr col : Nat} (hl : lr < 32) (hc : col < c.chain) :
    ∃ x < c.w, ∃ y < c.h, localRow y = lr ∧ chainColumn c x y = col := by
  obtain ⟨seg, hseg, k, hk, rfl⟩ := exists_digit (hc.trans_eq c.chain_eq)
  have hh := c.h_eq_segments
  obtain heven | hodd := Nat.mod_two_eq_zero_or_one seg
  · have hdiv : (32 * seg + lr) / 32 = seg := by omega
    obtain ⟨hrow, hcol⟩ := fold_even (y := 32 * seg + lr) hk (hdiv.symm ▸ heven)
    refine ⟨k, hk, 32 * seg + lr, by omega, by omega, ?_⟩
    rw [hcol, hdiv, Nat.add_comm]
  · have hdiv : (32 * seg + (31 - lr)) / 32 = seg := by omega
    obtain ⟨hrow, hcol⟩ := fold_odd (c := c) (x := c.w - 1 - k) (y := 32 * seg + (31 - lr)) (by omega) (hdiv.symm ▸ hodd)
    refine ⟨c.w - 1 - k, by omega, 32 * seg + (31 - lr), by omega, by omega, ?_⟩
    rw [hcol, hdiv]
    omega

/-- Every byte of a plane and every bit triple is the place of a pixel of the panel (R138). -/
theorem exists_mapPixel {c : Config} {off grp : Nat} (hoff : off < c.planeSize) (hgrp : grp < 2) :
    ∃ x y : Int, InRange c x y ∧ mapPixel c x y = some ⟨off, grp⟩ := by
  obtain ⟨lr, hl, col, hc, hplace⟩ := exists_placeOf hoff hgrp
  obtain ⟨x, hx, y, hy, rfl, rfl⟩ := exists_fold hl hc
  exact ⟨x, y, ⟨by omega, by omega, by omega, by omega⟩, (mapPixel_natCast hx hy).trans (congrArg some hplace)⟩

/-- Every data bit of a byte is of a bit triple and a channel (R136). -/
theorem exists_bitPos {b : Nat} (h2 : 2 ≤ b) (h7 : b ≤ 7) : ∃ grp < 2, ∃ ch, bitPos grp ch = b := by
  interval_cases b
  · exact ⟨1, by decide, .blue, rfl⟩
  · exact ⟨1, by decide, .green, rfl⟩
  · exact ⟨1, by decide, .red, rfl⟩
  · exact ⟨0, by decide, .blue, rfl⟩
  · exact ⟨0, by decide, .green, rfl⟩
  · exact ⟨0, by decide, .red, rfl⟩

/-- The channels have one order in both bit triples, triple 0 three bits above triple 1 (R136). -/
theorem bitPos_eq_triple {grp : Nat} (hg : grp < 2) (ch : Channel) : bitPos grp ch = (1 - grp) * 3 + bitPos 1 ch := by
  interval_cases grp <;> cases ch <;> rfl

/-- Triple 1 takes the bits 2 to 4 (R136). -/
theorem bitPos_one_range (ch : Channel) : 2 ≤ bitPos 1 ch ∧ bitPos 1 ch ≤ 4 := by
  cases ch <;> decide

/-- A data bit is of one bit triple and one channel (R136). -/
theorem bitPos_injective {grp grp' : Nat} {ch ch' : Channel} (hg : grp < 2) (hg' : grp' < 2)
    (h : bitPos grp ch = bitPos grp' ch') : grp = grp' ∧ ch = ch' := by
  rw [bitPos_eq_triple hg, bitPos_eq_triple hg'] at h
  have hr := bitPos_one_range ch
  have hr' := bitPos_one_range ch'
  have hch : bitPos 1 ch = bitPos 1 ch' := by omega
  refine ⟨by omega, ?_⟩
  revert hch
  cases ch <;> cases ch' <;> decide

/-- A pixel with a place has a slot in every plane (R130). -/
theorem slot_of_mapPixel {c : Config} {x y : Int} {m : Place} (hm : mapPixel c x y = some m) (p : Nat) (ch : Channel) :
    slot c x y p ch = some (p * c.planeSize + m.off, bitPos m.grp ch) := by
  rw [slot, hm]

/-- One data bit is the slot of one pixel, plane and channel only (R138). -/
theorem slot_injective {c : Config} {x y x' y' : Int} {p p' o b : Nat} {ch ch' : Channel} (h : InRange c x y)
    (h' : InRange c x' y') (hs : slot c x y p ch = some (o, b)) (hs' : slot c x' y' p' ch' = some (o, b)) :
    x' = x ∧ y' = y ∧ p' = p ∧ ch' = ch := by
  obtain ⟨m, hm, hoff, hgrp, rfl, rfl⟩ := slot_eq_some hs
  obtain ⟨m', hm', hoff', hgrp', ho, hb⟩ := slot_eq_some hs'
  obtain ⟨hp, hoffs⟩ := digit_unique hoff' hoff ho
  obtain ⟨hgrps, hch⟩ := bitPos_injective hgrp' hgrp hb
  obtain ⟨hx, hy⟩ := (samePixel_iff h h' hm hm').2 ⟨hoffs, hgrps⟩
  exact ⟨hx, hy, hp, hch⟩

/-- Settles O48: a data bit of the half is decomposed into plane, place and bit position, each of which is reached, and two
slots that agree are of one pixel, plane and channel. -/
theorem mapperIsABijection : Obligations.MapperIsABijection := by
  refine fun c _ => ⟨fun x y p ch hin hp => ?_, fun o b ho h2 h7 => ?_⟩
  · have hm := mapPixel_inRange hin
    exact ⟨_, _, slot_of_mapPixel hm p ch, Config.plane_inside hp (mapPixel_off_lt hm).1, bitPos_range _ ch⟩
  · obtain ⟨p, hp, off, hoff, rfl⟩ := exists_digit ho
    obtain ⟨grp, hgrp, ch, rfl⟩ := exists_bitPos h2 h7
    obtain ⟨x, y, hin, hm⟩ := exists_mapPixel hoff hgrp
    have hslot := slot_of_mapPixel hm p ch
    exact ⟨x, y, p, ch, ⟨hin, hp, hslot⟩, fun x' y' p' ch' hin' _ => slot_injective hin hin' hslot⟩

end Sys2Proof.Machine

/-! The statements of 42_framebuffer_ops.md: what a whole SETPIXEL (R150) and a whole FILL (R153) leave, the window between
FILL's phases (R154, R282), how long the two take (R152, R155), and the requests (R157 to R159). -/

namespace Sys2Proof.Machine

/-! ### Whole commands (R150, R153) -/

/-- A block that is ready for a command is ready again after a whole access sequence. -/
theorem goOn_whole_ready {s : State} (hr : CommandReady s) {todo : List Access}
    (hin : ∀ x ∈ todo, x.addr < s.cfg.memSize) (hb : s.budget = none) :
    goOn s todo = .next { s with fb := afterAccesses todo s.fb } := by
  obtain ⟨_, _, ht⟩ := hr
  rw [goOn_whole s todo hin hb, ← ht]

/-- Settles O18: the place of the pixel is modified in every plane, and no other byte is accessed. -/
theorem setPixelWritesItsPlace : Obligations.SetPixelWritesItsPlace := by
  refine fun s x y color hr hb hm => ⟨execSetPixel_outside color hr, fun off grp hplace => ?_⟩
  obtain ⟨hoff, _⟩ := mapPixel_off_lt hplace
  refine ⟨_, (execSetPixel_ready color hr hplace).trans
    (goOn_whole_ready hr (setPixelAccesses_inside s hoff color) hb), afterAccesses_wf _ hm, fun p hp => ?_, fun a ha => ?_⟩
  · exact (read_setPixelAccesses hm s.backBase hoff color hp hoff).trans (if_pos rfl)
  · refine read_afterAccesses_other _ hm a fun access haccess he => ?_
    obtain ⟨p, hp, rfl⟩ := mem_setPixelAccesses.1 haccess
    exact ha p hp he.symm

/-- A ready block has a last byte in every slice, so FILL's accesses are inside the framebuffer. -/
theorem fillAccesses_inside_ready {s : State} (hr : CommandReady s) (color : Color) :
    ∀ x ∈ fillAccesses s.cfg s.backBase color, x.addr < s.cfg.memSize :=
  fillAccesses_inside s color (le_trans (by decide) (Config.rowSize_ge hr.1))

/-- Settles O21: every byte of the back half is stored and the last bytes of the slices are stamped, and FILL's accesses stay
within the half. -/
theorem fillWritesTheBackHalf : Obligations.FillWritesTheBackHalf := by
  intro s color hr hb hm
  have hgo := goOn_whole_ready hr (fillAccesses_inside_ready hr color) hb
  refine ⟨_, (execFill_ready color hr).trans hgo, afterAccesses_wf _ hm,
    fun p r i hp hrow hi => read_fillAccesses hm color hp hrow hi, fun a ha => ?_⟩
  exact goOn_withinHalf (fillAccesses_withinHalf s.backHalf (le_trans (by decide) (Config.rowSize_ge hr.1)) color) hm hgo ha

/-! ### The window between FILL's phases (R154, R282) -/

/-- As many accesses as the first part of a sequence has make just that part. -/
theorem runAccesses_append {size : Nat} {l : List Access} (h : ∀ x ∈ l, x.addr < size) (r : List Access) (m : Memory) :
    runAccesses size (accessCount l) (l ++ r) m = .ok (r, afterAccesses l m) := by
  induction l generalizing m with
  | nil => rfl
  | cons x l ih =>
    have hx := h x List.mem_cons_self
    have hl := ih fun y hy => h y (List.mem_cons_of_mem x hy)
    cases x with
    | store a v => exact (if_pos hx).trans (hl _)
    | modify a keep bits => exact (if_pos hx).trans ((if_pos hx).trans (hl _))

/-- After `D * plane_size` accesses of a FILL, phase 1 is made and phase 2 is left. -/
theorem execFill_phase1 {s : State} (color : Color) (hr : CommandReady s)
    (hb : s.budget = some (s.cfg.d * s.cfg.planeSize)) :
    execFill color s = .next { s with
      todo := fillStamps s.cfg s.backBase
      fb := afterAccesses (fillBulk s.cfg s.backBase color) s.fb } := by
  have hin : ∀ x ∈ fillBulk s.cfg s.backBase color, x.addr < s.cfg.memSize := fun x hx =>
    fillAccesses_inside_ready hr color x (List.mem_append_left _ hx)
  have hrun := runAccesses_append hin (fillStamps s.cfg s.backBase) s.fb
  rw [accessCount_fillBulk] at hrun
  rw [execFill_ready color hr, goOn, hb, Option.getD_some, fillAccesses, hrun]

/-- Settles O22: after phase 1 every byte of the back half is a fill byte, and those have the control bits clear. -/
theorem fillWindowHasControlBitsClear : Obligations.FillWindowHasControlBitsClear := by
  intro s color hr hm hb
  refine ⟨_, execFill_phase1 color hr hb, (accessCount_fillStamps _ _).trans (Nat.mul_comm _ _), fun p r hp hrow => ?_⟩
  have hlast : s.cfg.rowSize - 1 < s.cfg.rowSize := Nat.sub_one_lt_of_lt (Config.rowSize_ge hr.1)
  have hread := read_fillBulk hm s.backBase color hp (Config.slice_inside hrow hlast)
  rw [Config.addr_eq_plane]
  exact (congrArg (· &&& 0x03) hread).trans (fillByte_control color p).1

/-! ### How long a command takes (R152, R155) -/

/-- A sequence inside the framebuffer takes the accesses allowed, and has ended once they are as many as it has. -/
theorem goOn_ends_iff {s : State} {n : Nat} (hb : s.budget = some n) {todo : List Access}
    (hin : ∀ x ∈ todo, x.addr < s.cfg.memSize) :
    ∃ t, goOn s todo = .next t ∧ (t.todo = [] ↔ accessCount todo ≤ n) := by
  obtain ⟨rest, m, hgo, _, _, hcount, _⟩ := goOn_spec s todo hin
  rw [hb, Option.getD_some] at hcount
  exact ⟨_, hgo, accessCount_eq_zero.symm.trans (hcount ▸ Nat.sub_eq_zero_iff_le)⟩

/-- An in-range SETPIXEL has ended after `2 * D` accesses and not before (R151, R152). -/
theorem execSetPixel_ends_iff {s : State} {n : Nat} (hr : CommandReady s) (hb : s.budget = some n) {x y : Int}
    (hin : InRange s.cfg x y) (color : Color) :
    ∃ t, execSetPixel x y color s = .next t ∧ (t.todo = [] ↔ 2 * s.cfg.d ≤ n) := by
  have hplace := mapPixel_inRange hin
  rw [execSetPixel_ready color hr hplace, ← accessCount_setPixel s.cfg s.backBase _ color]
  exact goOn_ends_iff hb (setPixelAccesses_inside s (mapPixel_off_lt hplace).1 color)

/-- A FILL has ended after `D * plane_size + 32 * D` accesses and not before (R154, R155). -/
theorem execFill_ends_iff {s : State} {n : Nat} (hr : CommandReady s) (hb : s.budget = some n) (color : Color) :
    ∃ t, execFill color s = .next t ∧ (t.todo = [] ↔ s.cfg.d * s.cfg.planeSize + 32 * s.cfg.d ≤ n) := by
  have hcount : accessCount (fillAccesses s.cfg s.backBase color) = s.cfg.d * s.cfg.planeSize + 32 * s.cfg.d := by
    rw [fillAccesses, accessCount_append, accessCount_fillBulk, accessCount_fillStamps, Nat.mul_comm _ 32]
  rw [execFill_ready color hr, ← hcount]
  exact goOn_ends_iff hb (fillAccesses_inside_ready hr color)

/-- Settles O23: the two commands end as counted, and a legal configuration has a depth of at most 4. -/
theorem accessSequencesAreBounded : Obligations.AccessSequencesAreBounded := by
  refine fun s n hr => ⟨fun x y color hin => ?_, execFill_ends_iff (s := { s with budget := some n }) hr rfl⟩
  obtain ⟨t, hnext, hend⟩ := execSetPixel_ends_iff (s := { s with budget := some n }) hr rfl hin color
  obtain ⟨_, _, _, hd, _⟩ := (Config.legal_iff s.cfg).1 hr.1
  exact ⟨t, hnext, hend, Nat.mul_le_mul_left 2 hd⟩

/-! ### The requests (R157, R158) -/

/-- Settles O25: the write of the request is conditional on `DB`. -/
theorem reqSwapSetsItsFlag : Obligations.ReqSwapSetsItsFlag := by
  refine fun s hr => ⟨fun hdb => ?_, fun hdb => ?_⟩
  · exact (execReqSwap_ready hr).trans (congrArg _ (if_pos hdb))
  · exact (execReqSwap_ready hr).trans (congrArg _ (if_neg (by simp [hdb])))

/-- Settles O26: a REQRESYNC that may run is that write. -/
theorem reqResyncSetsItsFlag : Obligations.ReqResyncSetsItsFlag := fun _ hr => execReqResync_ready hr

/-! ### The commands and the scheduler (R159) -/

/-- Values of the registers that no command reads or writes: the scan position, the period, the engine's registers and
BLANK (R159). -/
structure SchedulerValues where
  row : BitVec 4
  plane : BitVec 2
  tickPeriod : Reg32
  xferBase : Reg32
  xferLen : Reg32
  xferIdx : Reg32
  xferBusy : Bool
  blank : Bool

/-- The state with other values in those registers. -/
def State.withScheduler (s : State) (v : SchedulerValues) : State :=
  { s with row := v.row, plane := v.plane, tickPeriod := v.tickPeriod, xferBase := v.xferBase, xferLen := v.xferLen,
           xferIdx := v.xferIdx, xferBusy := v.xferBusy, blank := v.blank }

/-- What the four commands may change: the framebuffer, the command in progress, and the two requests, which they do not
withdraw. -/
structure LeavesScheduler (s t : State) : Prop where
  frame : t = { s with fb := t.fb, todo := t.todo, swapReq := t.swapReq, resyncReq := t.resyncReq }
  swap_kept : s.swapReq = true → t.swapReq = true
  resync_kept : s.resyncReq = true → t.resyncReq = true

theorem goOn_leavesScheduler {s t : State} {todo : List Access} (h : goOn s todo = .next t) : LeavesScheduler s t := by
  obtain ⟨_, _, _, rfl⟩ := goOn_next h
  exact ⟨rfl, id, id⟩

theorem State.requestSwap_leavesScheduler (s : State) : LeavesScheduler s s.requestSwap := by
  unfold State.requestSwap
  split_ifs
  · exact ⟨rfl, fun _ => rfl, id⟩
  · exact ⟨rfl, id, id⟩

/-- An access sequence sees the configuration, the framebuffer and the budget only. -/
theorem goOn_withScheduler {s t : State} {todo : List Access} (h : goOn s todo = .next t) (v : SchedulerValues) :
    goOn (s.withScheduler v) todo = .next (t.withScheduler v) := by
  obtain ⟨rest, m, hrun, rfl⟩ := goOn_next h
  have hrun' : runAccesses (s.withScheduler v).cfg.memSize ((s.withScheduler v).budget.getD (accessCount todo)) todo
      (s.withScheduler v).fb = .ok (rest, m) := hrun
  rw [goOn, hrun']
  rfl

theorem State.requestSwap_withScheduler (s : State) (v : SchedulerValues) :
    (s.withScheduler v).requestSwap = s.requestSwap.withScheduler v :=
  (apply_ite (State.withScheduler · v) (s.cfg.db = true) { s with swapReq := true } s).symm

/-- A ready block takes each of the four commands to its end if no event is to fall within it. -/
theorem exec_command_completes {s : State} {i : Instr} (hd : i.domain = .application) (hne : i ≠ .beginOp)
    (hr : CommandReady s) (hb : s.budget = none) : ∃ t, exec i s = .next t ∧ t.todo = [] := by
  have hdraw : ((∃ x y color, i = .setPixel x y color) ∨ ∃ color, i = .fill color) →
      ∃ t, exec i s = .next t ∧ t.todo = [] := fun hi => by
    obtain ⟨todo, hin, hx⟩ := exec_drawing hr hi
    exact ⟨_, (hx s.budget).trans (goOn_whole s todo hin hb), rfl⟩
  cases i with
  | beginOp => exact absurd rfl hne
  | setPixel x y color => exact hdraw (.inl ⟨x, y, color, rfl⟩)
  | fill color => exact hdraw (.inr ⟨color, rfl⟩)
  | reqSwap => exact ⟨_, execReqSwap_ready hr, s.requestSwap_todo.trans hr.2.2⟩
  | reqResync => exact ⟨_, execReqResync_ready hr, hr.2.2⟩
  | tick | xferByte | xferDone => cases hd

/-- Each of the four commands leaves the scheduler's registers, and with other values there it does the same. -/
theorem exec_command_leavesScheduler {s t : State} {i : Instr} (hd : i.domain = .application) (hne : i ≠ .beginOp)
    (h : exec i s = .next t) :
    LeavesScheduler s t ∧ ∀ v, exec i (s.withScheduler v) = .next (t.withScheduler v) := by
  cases i with
  | beginOp => exact absurd rfl hne
  | setPixel x y color =>
    obtain ⟨hr, ⟨hout, rfl⟩ | ⟨_, m, hm, _, _, hgo⟩⟩ := execSetPixel_next h
    · exact ⟨⟨rfl, id, id⟩, fun v => execSetPixel_outside (s := t.withScheduler v) color hr (if_neg hout)⟩
    · exact ⟨goOn_leavesScheduler hgo, fun v =>
        (execSetPixel_ready (s := s.withScheduler v) color hr hm).trans (goOn_withScheduler hgo v)⟩
  | fill color =>
    obtain ⟨hr, hgo⟩ := execFill_next h
    exact ⟨goOn_leavesScheduler hgo, fun v =>
      (execFill_ready (s := s.withScheduler v) color hr).trans (goOn_withScheduler hgo v)⟩
  | reqSwap =>
    obtain ⟨hr, rfl⟩ := execReqSwap_next h
    exact ⟨s.requestSwap_leavesScheduler, fun v =>
      (execReqSwap_ready (s := s.withScheduler v) hr).trans (congrArg _ (s.requestSwap_withScheduler v))⟩
  | reqResync =>
    obtain ⟨hr, rfl⟩ := execReqResync_next h
    exact ⟨⟨rfl, id, fun _ => rfl⟩, fun v => execReqResync_ready (s := s.withScheduler v) hr⟩
  | tick | xferByte | xferDone => cases hd

/-- Settles O28: a command's access sequence and its writes do not depend on the scheduler's registers. -/
theorem commandsLeaveTheSchedulerAlone : Obligations.CommandsLeaveTheSchedulerAlone := by
  refine fun s i hd hne => ⟨exec_command_completes hd hne, fun t h => ?_⟩
  obtain ⟨⟨hframe, hswap, hresync⟩, hsame⟩ := exec_command_leavesScheduler hd hne h
  exact ⟨hframe, hswap, hresync, fun row plane period base len idx busy blank =>
    hsame ⟨row, plane, period, base, len, idx, busy, blank⟩⟩

end Sys2Proof.Machine

/-! The statements of 43_refresh_scheduler.md: the six steps of TICK (R170, R174 to R176), its boundary action (R173), its
independence of the framebuffer (R178), and the end of a run (R180). -/

namespace Sys2Proof.Machine

/-! ### TICK (R170, R173) -/

/-- The boundary test is the scan position `(15, D-1)`, as a truth value (R172). -/
theorem State.atBoundary_eq_decide (s : State) :
    s.atBoundary = decide (s.row = 15 ∧ s.plane.toNat = s.cfg.d - 1) :=
  Bool.eq_iff_iff.2 (s.atBoundary_iff.trans decide_eq_true_iff.symm)

/-- A tick requests the first byte of the slice at the position and in the half it leaves selected (R60, R176). -/
theorem State.tick_requests (s : State) :
    s.boundaryAction.advance.sliceAddr =
      s.cfg.addr s.tick.frontSel.toNat s.tick.plane.toNat s.tick.row.toNat 0 := by
  simp [State.sliceAddr, State.frontBase, State.frontHalf, Config.addr]

/-- A tick withdraws the swap request exactly when it swaps (R173). -/
theorem State.tick_swapReq_withdrawn (s : State) :
    s.tick.swapReq = (s.swapReq && !(s.atBoundary && !s.resyncReq && s.swapReq && s.cfg.db)) := by
  rw [State.tick_swapReq]
  cases s.swapReq <;> simp

/-- A tick withdraws the resync request exactly when it sends a clear pulse (R173). -/
theorem State.tick_resyncReq_withdrawn (s : State) :
    s.tick.resyncReq = (s.resyncReq && !(s.atBoundary && s.resyncReq)) := by
  rw [State.tick_resyncReq]
  cases s.resyncReq <;> simp

/-- Settles O30: a tick that may run is the model's `State.tick`, and each field of that is the one stated. -/
theorem tickIsTheSixSteps : Obligations.TickIsTheSixSteps := by
  intro s hr hp
  have hb := s.atBoundary_eq_decide
  have hperiod := s.cfg.period_eq s.plane.toNat
  have ha := s.tick_requests
  rw [State.tick_frontSel, State.tick_plane, State.tick_row, hb] at ha
  refine (execTick_ready hr hp).trans (congrArg _ ?_)
  apply State.eq_of_fields
  case h4 => rw [State.tick_xferBase, ha] -- XFER_BASE
  case h7 => rw [State.tick_swapReq_withdrawn, hb] -- SWAP_REQ
  case h8 => rw [State.tick_resyncReq_withdrawn, hb] -- RESYNC_REQ
  case h12 => rw [State.tick_frontSel, hb] -- FRONT_SEL
  case h18 => -- the output trace
    rw [State.tick_trace, ha, hb, hperiod]
    simp only [List.append_assoc]
  all_goals simp [hperiod]

/-- Settles O31: the boundary test and the two requests decide what becomes of the requests and `FRONT_SEL`. -/
theorem boundaryAppliesAtMostOneAction : Obligations.BoundaryAppliesAtMostOneAction := by
  refine fun s hr hp => ⟨s.tick, execTick_ready hr hp, s.tick_fb, fun hno => ?_, fun hrow hplane hresync => ?_,
    fun hrow hplane hresync hswap hdb => ?_⟩
  · have hb : s.atBoundary = false :=
      Bool.eq_false_iff.2 fun hb => (not_and_or.2 hno) (s.atBoundary_iff.1 hb)
    simp [hb]
  · have hb := s.atBoundary_iff.2 ⟨hrow, hplane⟩
    simp [hb, hresync]
  · have hb := s.atBoundary_iff.2 ⟨hrow, hplane⟩
    simp [hb, hresync, hswap, hdb]

/-! ### TICK and the framebuffer (R178) -/

/-- Over any other framebuffer content a tick does the same (R178). -/
theorem State.tick_of_fb (s : State) (m : Memory) : ({ s with fb := m } : State).tick = { s.tick with fb := m } := by
  have hb : ({ s with fb := m } : State).atBoundary = s.atBoundary := rfl
  have ha : ({ s with fb := m } : State).boundaryAction.advance.sliceAddr = s.boundaryAction.advance.sliceAddr := by
    rw [State.tick_requests, State.tick_requests]
    simp [hb]
  apply State.eq_of_fields <;> simp [hb, ha]

/-- Settles O36: neither what TICK requires nor what it does reads the framebuffer. -/
theorem tickDoesNotReadTheFramebuffer : Obligations.TickDoesNotReadTheFramebuffer := by
  intro s t m h
  obtain ⟨hr, hp, rfl⟩ := execTick_next h
  exact (execTick_ready (s := { s with fb := m }) hr hp).trans (congrArg _ (s.tick_of_fb m))

/-! ### The end of a run (R8, R180) -/

theorem step_of_noMoves {s : State} (h : s.sched = []) : step s = .refused .runEnded := by
  unfold step takeMove
  rw [h]

/-- Settles O4: there is no move to take, or the move taken resumes a command that is not in progress. -/
theorem endedRunHasNoStep : Obligations.EndedRunHasNoStep :=
  fun _ => ⟨step_of_noMoves, fun _ _ hs ht => (step_of_sched hs).trans (if_pos ht)⟩

end Sys2Proof.Machine

/-! The statements of 44_transfer_engine.md: the overlap (R202), the engine's two events (R204, R205), the whole transfer
(R206), and that the engine always goes on (R208). -/

namespace Sys2Proof.Machine

/-! ### XFERBYTE and XFERDONE (R204, R205) -/

/-- An XFERBYTE with no transfer in flight, or with no byte left, has no step (R204). -/
theorem execXferByte_disabled {s : State} (h : EventReady s)
    (hno : s.xferBusy = false ∨ s.xferLen.toNat ≤ s.xferIdx.toNat) : execXferByte s = .refused .eventNotEnabled := by
  unfold execXferByte
  rw [whenEvent_ready _ h, if_neg]
  simp only [Bool.and_eq_true, decide_eq_true_eq, not_and_or, Bool.not_eq_true, not_lt]
  exact hno

/-- An XFERDONE with no transfer in flight, or with bytes left, has no step (R205). -/
theorem execXferDone_disabled {s : State} (h : EventReady s) (hno : s.xferBusy = false ∨ s.xferIdx ≠ s.xferLen) :
    execXferDone s = .refused .eventNotEnabled := by
  unfold execXferDone
  rw [whenEvent_ready _ h, if_neg]
  simp only [Bool.and_eq_true, decide_eq_true_eq, not_and_or, Bool.not_eq_true]
  exact hno

/-- Settles O40: the byte at `XFER_BASE + XFER_IDX` is sent, or the event is not enabled. -/
theorem xferByteSendsOneByte : Obligations.XferByteSendsOneByte :=
  fun _ hr => ⟨execXferByte_ready hr, execXferByte_disabled hr⟩

/-- Settles O41: the transfer is completed, or the event is not enabled. -/
theorem xferDoneFreesTheEngine : Obligations.XferDoneFreesTheEngine :=
  fun _ hr => ⟨execXferDone_ready hr, execXferDone_disabled hr⟩

/-! ### The overlap (R202) -/

/-- A release build is never halted (R29). -/
theorem State.halted_of_release {s : State} (h : s.cfg.debugTrap = false) : s.halted = false := by
  unfold State.halted
  rw [h, Bool.false_and]

/-- The row advances modulo 16 (R24). -/
theorem State.tick_row_succ (s : State) : s.tick.row = s.row + 1 := by
  rw [State.tick_row]
  split_ifs with h
  · rw [h]; rfl
  · rfl

/-- A tick that finds a transfer in flight records the overlap (R202). -/
theorem State.tick_overlap {s : State} (hb : s.xferBusy = true) :
    s.tick.faultReg = s.faultReg ||| 0x01 ∧ Faulted s.tick := by
  have hfault : s.tick.faultReg = s.faultReg ||| 0x01 := by rw [State.tick_faultReg, if_pos hb]
  refine ⟨hfault, ?_⟩
  show s.tick.faultReg.getLsbD 0 = true
  rw [hfault, BitVec.getLsbD_or]
  exact Bool.or_true _

/-- Settles O34: the step made is the tick's, whose request is dropped; a debug build is halted by the fault that is
recorded. -/
theorem overlapDropsTheRequest : Obligations.OverlapDropsTheRequest := by
  intro s hr hp hb
  have hbound := s.atBoundary_eq_decide
  obtain ⟨hfault, hset⟩ := State.tick_overlap hb
  refine ⟨s.tick, execTick_ready hr hp, hset, hfault, s.tick_xferBusy, ?base, ?len, ?idx, s.tick_fb, s.tick_blank,
    s.tick_row_succ, s.tick_plane, ?front, ?swap, ?resync, ?period, ?trace, fun hd i hi => ?_, fun hd => ?_⟩
  case base => rw [State.tick_xferBase, if_pos hb]
  case len => rw [State.tick_xferLen, if_pos hb]
  case idx => rw [State.tick_xferIdx, if_pos hb]
  case front => rw [State.tick_frontSel, hbound]
  case swap => rw [State.tick_swapReq_withdrawn, hbound]
  case resync => rw [State.tick_resyncReq_withdrawn, hbound]
  case period => rw [State.tick_tickPeriod, Config.toNat_period hr.1, Config.period_eq]
  case trace => rw [State.tick_trace, if_pos hb, State.tick_requests, State.tick_tickPeriod, hbound, List.append_assoc,
    List.append_assoc, List.append_assoc]
  · exact faultIsSticky.2 s.tick i (s.tick_cfg ▸ hr.1) (s.tick_started.trans hr.2.1) (s.tick_cfg ▸ hd) hset hi
  · exact State.halted_of_release (s.tick_cfg ▸ hd)

/-! ### The whole transfer (R206) -/

/-- A line that holds a well-formed operation's word runs the operation (R9). -/
theorem step_lineOfInstr {s : State} {i : Instr} {rest : List Move} (hi : i.wf = true)
    (hs : s.sched = lineOfInstr i :: rest) : step s = exec i { s with sched := rest, budget := none } :=
  stepRunsTheDecodedLine s (encode i) none rest i hs (decodeInvertsEncode i hi)

/-- Where XFER_IDX is below XFER_LEN, counting a byte does not wrap (R204). -/
theorem toNat_succ_of_lt {i l : Reg32} (h : i.toNat < l.toNat) : (i + 1).toNat = i.toNat + 1 := by
  have hmax := l.isLt
  rw [BitVec.toNat_add]
  exact Nat.mod_eq_of_lt (show i.toNat + 1 < 2 ^ 32 by omega)

/-- The events of the `n` bytes from address `a` on, in ascending address order (R65). -/
def sliceEvents (m : Memory) (a n : Nat) : List OutEvent := (List.range' a n).map fun k => .serialByte (m.read k)

theorem sliceEvents_succ (m : Memory) (a n : Nat) :
    sliceEvents m a (n + 1) = .serialByte (m.read a) :: sliceEvents m (a + 1) n := by
  rw [sliceEvents, List.range'_succ, List.map_cons, ← sliceEvents]

/-- The state that an XFERBYTE leaves (R204, `execXferByte_ready`). -/
def State.sendByte (s : State) : State :=
  { s.emit (.serialByte (s.fb.read s.sendAddr)) with xferIdx := s.xferIdx + 1 }

theorem State.sendByte_sendAddr {s : State} (h : s.xferIdx.toNat < s.xferLen.toNat) :
    s.sendByte.sendAddr = s.sendAddr + 1 :=
  congrArg (s.xferBase.toNat + ·) (toNat_succ_of_lt h)

/-- A transfer in flight with `n` bytes left, left alone, is `n` XFERBYTE steps and one XFERDONE. -/
theorem run_transfer (n : Nat) {s : State} (h : Inv s) (hr : EventReady s) (hb : s.xferBusy = true)
    (hn : s.xferIdx.toNat + n = s.xferLen.toNat) {rest : List Move}
    (hs : s.sched = List.replicate n (lineOfInstr .xferByte) ++ lineOfInstr .xferDone :: rest) :
    core.run (n + 1) s = .next { s with
      xferIdx := s.xferLen, xferBusy := false, sched := rest, budget := none
      trace := s.trace ++ sliceEvents s.fb s.sendAddr n ++ [.xferDone] } := by
  induction n generalizing s with
  | zero =>
    have hidx : s.xferIdx = s.xferLen := BitVec.eq_of_toNat_eq hn
    have hstep := (step_lineOfInstr rfl hs).trans
      (execXferDone_ready (s := { s with sched := rest, budget := none }) hr hb hidx)
    rw [run_succ 0 hstep, ← hidx, sliceEvents, List.range'_zero, List.map_nil, List.append_nil]
    rfl
  | succ n ih =>
    have hlt : s.xferIdx.toNat < s.xferLen.toNat := by omega
    have hstep : step s = .next (State.sendByte { s with sched := _, budget := none }) :=
      (step_lineOfInstr rfl hs).trans (execXferByte_ready hr hb hlt (h.sendAddr_lt hb hlt))
    have hleft : s.sendByte.xferIdx.toNat + n = s.xferLen.toNat := by
      rw [show s.sendByte.xferIdx = s.xferIdx + 1 from rfl, toNat_succ_of_lt hlt]
      omega
    rw [run_succ (n + 1) hstep, ih (invIsKeptByEveryStep s _ h hstep) hr hb hleft rfl, sliceEvents_succ,
      List.append_cons s.trace, State.sendByte_sendAddr]
    · rfl
    · exact hlt

/-- Settles O42: a transfer just accepted has all its bytes left. -/
theorem transferSendsTheWholeSlice : Obligations.TransferSendsTheWholeSlice := by
  intro s rest h hr hb hidx hs
  have hzero : s.xferIdx.toNat = 0 := by rw [hidx]; rfl
  rw [run_transfer s.xferLen.toNat h hr hb (by omega) hs, sliceEvents, State.sendAddr, hzero, Nat.add_zero,
    List.range'_eq_map_range, List.map_map]
  rfl

/-! ### The engine goes on (R208) -/

/-- While a transfer is in flight, its next byte can be sent or, with none left, it can be completed. -/
theorem Inv.engineEnabled {s : State} (h : Inv s) (hr : EventReady s) (hb : s.xferBusy = true) : EngineEnabled s := by
  obtain ⟨_, hle, _⟩ := h.transfer hb
  obtain hlt | heq := Nat.lt_or_eq_of_le hle
  · exact .inl ⟨_, execXferByte_ready hr hb hlt (h.sendAddr_lt hb hlt)⟩
  · exact .inr ⟨_, execXferDone_ready hr hb (BitVec.eq_of_toNat_eq heq)⟩

/-- Settles O43: one of the engine's two events is enabled. -/
theorem engineAlwaysHasAStep : Obligations.EngineAlwaysHasAStep :=
  fun _ h hr hb => exists_or.2 (h.engineEnabled hr hb)

/-- A block with a transfer in flight has been started (R45). -/
theorem Inv.started_of_busy {s : State} (h : Inv s) (hb : s.xferBusy = true) : s.started = true := by
  by_contra hs
  nomatch hb.symm.trans (h.idle_before_start (Bool.eq_false_iff.2 hs)).2

/-- A transfer is in flight in `t`, and its slice is the one that `s` holds. -/
def SameTransfer (s t : State) : Prop := t.xferBusy = true ∧ t.xferBase = s.xferBase ∧ t.xferLen = s.xferLen

theorem SameTransfer.trans {s t u : State} (h : SameTransfer s t) (h' : SameTransfer t u) : SameTransfer s u := by
  obtain ⟨_, hbase, hlen⟩ := h
  obtain ⟨hbusy, hbase', hlen'⟩ := h'
  exact ⟨hbusy, hbase'.trans hbase, hlen'.trans hlen⟩

/-- The transfer is the same and no byte of it has been sent between. -/
def KeepsTransfer (s t : State) : Prop := SameTransfer s t ∧ t.xferIdx = s.xferIdx

theorem goOn_keepsTransfer {s t : State} {todo : List Access} (hb : s.xferBusy = true) (h : goOn s todo = .next t) :
    KeepsTransfer s t := by
  obtain ⟨_, _, _, rfl⟩ := goOn_next h
  exact ⟨⟨hb, rfl, rfl⟩, rfl⟩

/-- An overlap leaves the transfer in flight alone (R202). -/
theorem State.tick_keepsTransfer {s : State} (hb : s.xferBusy = true) : KeepsTransfer s s.tick := by
  simp [KeepsTransfer, SameTransfer, hb]

/-- No operation but the engine's own two touches a transfer in flight. -/
theorem exec_keepsTransfer {s t : State} {i : Instr} (h : Inv s) (hb : s.xferBusy = true) (hbyte : i ≠ .xferByte)
    (hdone : i ≠ .xferDone) (he : exec i s = .next t) : KeepsTransfer s t := by
  have hsame : KeepsTransfer s s := ⟨⟨hb, rfl, rfl⟩, rfl⟩
  cases i with
  | beginOp =>
    obtain ⟨_, _, hinit, _⟩ := execBegin_next he
    nomatch (h.started_of_busy hb).symm.trans (h.not_started hinit)
  | setPixel x y color =>
    obtain ⟨_, ⟨_, rfl⟩ | ⟨_, _, _, _, _, hgo⟩⟩ := execSetPixel_next he
    · exact hsame
    · exact goOn_keepsTransfer hb hgo
  | fill color => exact goOn_keepsTransfer hb (execFill_next he).2
  | reqSwap =>
    obtain ⟨_, rfl⟩ := execReqSwap_next he
    simpa [KeepsTransfer, SameTransfer] using hb
  | reqResync =>
    obtain ⟨_, rfl⟩ := execReqResync_next he
    exact hsame
  | tick =>
    obtain ⟨_, _, rfl⟩ := execTick_next he
    exact State.tick_keepsTransfer hb
  | xferByte => exact absurd rfl hbyte
  | xferDone => exact absurd rfl hdone

theorem passTime_keepsTransfer {s t : State} (hb : s.xferBusy = true) (h : passTime s = .next t) :
    KeepsTransfer s t := by
  obtain ⟨_, rfl⟩ | ⟨_, _, rfl⟩ | ⟨_, _, htick⟩ := passTime_next h
  · exact ⟨⟨hb, rfl, rfl⟩, rfl⟩
  · exact ⟨⟨hb, rfl, rfl⟩, rfl⟩
  · obtain ⟨_, _, rfl⟩ := execTick_next htick
    rw [State.tick_of_timerCnt]
    exact State.tick_keepsTransfer hb

theorem whenLegalWord_next {d : Except DecodeError Instr} {k : Instr → Result} {t : State}
    (h : whenLegalWord d k = .next t) : ∃ i, d = .ok i ∧ k i = .next t := by
  cases d with
  | error e => nomatch h
  | ok i => exact ⟨i, rfl, h⟩

/-- The command port accepts commands only (R94). -/
theorem application_of_decodePort {w : OpWord} {i : Instr} (h : decodePort w = .ok i) : i.domain = .application := by
  cases hd : decode w with
  | error e => nomatch (decodePort_of_error hd).symm.trans h
  | ok j =>
    rw [decodePort_of_ok hd] at h
    split_ifs at h with hj
    cases h
    exact hj

/-- How many bytes of the transfer are still to be sent. -/
def State.bytesLeft (s : State) : Nat := s.xferLen.toNat - s.xferIdx.toNat

/-- What a move can do to a transfer in flight. -/
inductive EngineStep (m : Move) (s t : State) : Prop where
  /-- A move of another agent leaves it alone. -/
  | other (hm : ¬ EngineMove m) (hkeep : KeepsTransfer s t)
  /-- XFERBYTE sends a byte of it. -/
  | sent (hsame : SameTransfer s t) (hleft : t.bytesLeft < s.bytesLeft)
  /-- XFERDONE ends it. -/
  | completed (hm : ∃ w b, m = .line w b ∧ decode w = .ok .xferDone) (hfree : t.xferBusy = false)

/-- An XFERBYTE that occurs leaves one byte less (R204). -/
theorem execXferByte_sends {s t : State} (h : execXferByte s = .next t) :
    SameTransfer s t ∧ t.bytesLeft < s.bytesLeft := by
  obtain ⟨_, hb, hlt, _, rfl⟩ := execXferByte_next h
  refine ⟨⟨hb, rfl, rfl⟩, ?_⟩
  show s.xferLen.toNat - (s.xferIdx + 1).toNat < s.xferLen.toNat - s.xferIdx.toNat
  rw [toNat_succ_of_lt hlt]
  omega

/-- A line runs the operation that its word names, which tells the engine's moves from the others. -/
theorem line_engineStep {w : OpWord} {n : Option Nat} {s t : State} {i : Instr} (h : Inv s) (hb : s.xferBusy = true)
    (hd : decode w = .ok i) (he : exec i s = .next t) : EngineStep (.line w n) s t := by
  by_cases hbyte : i = .xferByte
  · subst hbyte
    obtain ⟨hsame, hleft⟩ := execXferByte_sends he
    exact .sent hsame hleft
  · by_cases hdone : i = .xferDone
    · subst hdone
      obtain ⟨_, _, _, rfl⟩ := execXferDone_next he
      exact .completed ⟨w, n, rfl, hd⟩ rfl
    · refine .other ?_ (exec_keepsTransfer h hb hbyte hdone he)
      rintro ⟨_, _, hw, hi⟩
      cases hw
      rw [hd] at hi
      obtain hi | hi := hi
      · exact hbyte (Except.ok.inj hi)
      · exact hdone (Except.ok.inj hi)

theorem runMove_engineStep {m : Move} {s t : State} (h : Inv s) (hb : s.xferBusy = true)
    (hm : runMove m s = .next t) : EngineStep m s t := by
  cases m with
  | line w n =>
    obtain ⟨i, hd, he⟩ := whenLegalWord_next hm
    exact line_engineStep h hb hd he
  | port w n =>
    obtain ⟨i, hd, he⟩ := whenLegalWord_next hm
    have happ := application_of_decodePort hd
    exact .other nofun (exec_keepsTransfer h hb (by rintro rfl; nomatch happ) (by rintro rfl; nomatch happ) he)
  | resume n => exact .other nofun (goOn_keepsTransfer hb (resumeCommand_next hm).2)
  | timeUnit => exact .other nofun (passTime_keepsTransfer hb hm)

/-- The list of moves and the budget are no part of the transfer. -/
theorem Takes.engineStep {m : Move} {s t : State} (ht : Takes m s t) (h : Inv s) (hb : s.xferBusy = true) :
    EngineStep m s t := by
  have hm : runMove m { s with sched := [], budget := m.upTo } = .next t := ht
  cases runMove_engineStep (h.of_moves [] m.upTo) hb hm with
  | other hother hkeep => exact .other hother hkeep
  | sent hsame hleft => exact .sent hsame hleft
  | completed hdone hfree => exact .completed hdone hfree

/-- Every state of an endless run has the invariant when the first one has it. -/
theorem EndlessRun.inv {moves : Nat → Move} {states : Nat → State} (hrun : EndlessRun moves states)
    (h : Inv (states 0)) (n : Nat) : Inv (states n) := by
  induction n with
  | zero => exact h
  | succ n ih => exact invIsKeptByEveryStep _ _ (ih.of_moves [moves n] (states n).budget) (hrun n)

/-- The transfer in flight in state `n` ends at move `k`: there the block is halted, or the move is its XFERDONE. -/
def EndsAt (moves : Nat → Move) (states : Nat → State) (k : Nat) : Prop :=
  (states k).halted = true ∨
    ((∃ w b, moves k = .line w b ∧ decode w = .ok .xferDone) ∧ (states (k + 1)).xferBusy = false)

section EndlessTransfer

variable {moves : Nat → Move} {states : Nat → State} {n : Nat}

/-- Up to the first move at which it ends, a transfer in flight stays the same. -/
theorem EndlessRun.sameTransfer (hrun : EndlessRun moves states) (h : Inv (states 0))
    (hb : (states n).xferBusy = true) {k : Nat} (hnk : n ≤ k) (hends : ∀ j, n ≤ j → j < k → ¬ EndsAt moves states j) :
    SameTransfer (states n) (states k) := by
  induction k, hnk using Nat.le_induction with
  | base => exact ⟨hb, rfl, rfl⟩
  | succ k hnk ih =>
    have hsame := ih fun j hj hjk => hends j hj (by omega)
    cases (hrun k).engineStep (hrun.inv h k) hsame.1 with
    | other _ hkeep => exact hsame.trans hkeep.1
    | sent hstep _ => exact hsame.trans hstep
    | completed hdone hfree => exact absurd (.inr ⟨hdone, hfree⟩) (hends k hnk (by omega))

/-- Where the transfer ends at no later move, an engine move leaves fewer bytes and any other move as many. -/
theorem EndlessRun.bytesLeft_step (hrun : EndlessRun moves states) (h : Inv (states 0))
    (hb : (states n).xferBusy = true) (hends : ∀ j, n ≤ j → ¬ EndsAt moves states j) {k : Nat} (hnk : n ≤ k) :
    (states (k + 1)).bytesLeft ≤ (states k).bytesLeft ∧
      (EngineMove (moves k) → (states (k + 1)).bytesLeft < (states k).bytesLeft) := by
  have hsame := hrun.sameTransfer h hb hnk fun j hj _ => hends j hj
  cases (hrun k).engineStep (hrun.inv h k) hsame.1 with
  | other hother hkeep =>
    obtain ⟨⟨_, _, hlen⟩, hidx⟩ := hkeep
    have hleft : (states (k + 1)).bytesLeft = (states k).bytesLeft := by rw [State.bytesLeft, hlen, hidx]; rfl
    exact ⟨hleft.le, fun hm => absurd hm hother⟩
  | sent _ hleft => exact ⟨hleft.le, fun _ => hleft⟩
  | completed hdone hfree => exact absurd (.inr ⟨hdone, hfree⟩) (hends k hnk)

/-- A transfer in flight that never ends keeps the engine enabled for ever. -/
theorem EndlessRun.engineEnabled (hrun : EndlessRun moves states) (h : Inv (states 0))
    (hb : (states n).xferBusy = true) (hends : ∀ j, n ≤ j → ¬ EndsAt moves states j) {k : Nat} (hnk : n ≤ k) :
    EngineEnabled (states k) := by
  have hk := hrun.inv h k
  have hbusy := (hrun.sameTransfer h hb hnk fun j hj _ => hends j hj).1
  have hs := hk.started_of_busy hbusy
  exact hk.engineEnabled ⟨(hk.config_ok hs).1, hs, Bool.eq_false_iff.2 fun hh => hends k hnk (.inl hh)⟩ hbusy

/-- A transfer in flight ends: else the bytes left would stop falling, while fairness has the engine move again. -/
theorem EndlessRun.exists_endsAt (hrun : EndlessRun moves states) (h : Inv (states 0)) (hfair : EngineFair moves states)
    (hb : (states n).xferBusy = true) : ∃ k, n ≤ k ∧ EndsAt moves states k := by
  by_contra! hends
  have hanti : Antitone fun j => (states (n + j)).bytesLeft :=
    antitone_nat_of_succ_le fun j => (hrun.bytesLeft_step h hb hends (Nat.le_add_right n j)).1
  obtain ⟨j, hconst⟩ := WellFoundedLT.antitone_chain_condition hanti
  obtain ⟨k, hjk, hmove⟩ := hfair (n + j) fun k hk => hrun.engineEnabled h hb hends (by omega)
  obtain ⟨i, rfl⟩ : ∃ i, k = n + i := ⟨k - n, by omega⟩
  have hfalls := (hrun.bytesLeft_step h hb hends (Nat.le_add_right n i)).2 hmove
  exact hfalls.ne ((hconst (i + 1) (by omega)).symm.trans (hconst i (by omega)))

end EndlessTransfer

/-- Settles O57: the first move at which the transfer ends; until then it stays the same. -/
theorem fairEngineCompletesEveryTransfer : Obligations.FairEngineCompletesEveryTransfer := by
  classical
  intro moves states h hrun hfair n hb
  have hex := hrun.exists_endsAt h hfair hb
  obtain ⟨hnk, hend⟩ := Nat.find_spec hex
  refine ⟨Nat.find hex, hnk, fun j hj hjk => hrun.sameTransfer h hb hj fun i hi hij hendi => ?_, hend⟩
  exact Nat.find_min hex (by omega) ⟨hi, hendi⟩

end Sys2Proof.Machine

namespace Sys2Proof.Machine

/-! ### Bit replication and the colour codec (R220 to R227) -/

/-- A field wider than the channel takes the value and its top bits again (R221). -/
theorem ofNat_bitReplicate_widen {n k : Nat} (v : BitVec n) (hk : 0 < k) (hkn : k ≤ n) :
    BitVec.ofNat (n + k) (bitReplicate v.toNat n (n + k)) = v ++ v.extractLsb' (n - k) k := by
  have htop : v.toNat >>> (n - k) < 2 ^ k := by
    simpa [Nat.sub_sub_self hkn] using BitVec.toNat_ushiftRight_lt v (n - k) (Nat.sub_le n k)
  have hrep : bitReplicate v.toNat n (n + k) = (v ++ v.extractLsb' (n - k) k).toNat := by
    rw [bitReplicate, if_neg (by omega), BitVec.toNat_append, BitVec.extractLsb'_toNat, Nat.mod_eq_of_lt htop,
      Nat.add_sub_cancel_left, show 2 * n - (n + k) = n - k by omega]
  rw [hrep, BitVec.ofNat_toNat, BitVec.setWidth_eq]

/-- A field no wider than the channel takes the value's top bits (R221). -/
theorem ofNat_bitReplicate_narrow {n w : Nat} (v : BitVec n) (hw : w ≤ n) :
    BitVec.ofNat w (bitReplicate v.toNat n w) = v.extractLsb' (n - w) w := by
  rw [bitReplicate, if_pos hw, BitVec.extractLsb']

/-- Color333 appends the top bits of each channel to its three bits (R222). -/
theorem color333_eq (r g b : BitVec 3) : color333 r.toNat g.toNat b.toNat =
    (r ++ r.extractLsb' 1 2) ++ (g ++ g.extractLsb' 0 3) ++ (b ++ b.extractLsb' 1 2) := by
  have hr := ofNat_bitReplicate_widen (k := 2) r (by decide) (by decide)
  have hg := ofNat_bitReplicate_widen (k := 3) g (by decide) (by decide)
  have hb := ofNat_bitReplicate_widen (k := 2) b (by decide) (by decide)
  rw [color333, promote, packColor, Nat.mod_eq_of_lt r.isLt, Nat.mod_eq_of_lt g.isLt, Nat.mod_eq_of_lt b.isLt,
    hr, hg, hb]

/-- Color444 appends the top bits of each channel to its four bits (R223). -/
theorem color444_eq (r g b : BitVec 4) : color444 r g b =
    (r ++ r.extractLsb' 3 1) ++ (g ++ g.extractLsb' 2 2) ++ (b ++ b.extractLsb' 3 1) := by
  have hr := ofNat_bitReplicate_widen (k := 1) r (by decide) (by decide)
  have hg := ofNat_bitReplicate_widen (k := 2) g (by decide) (by decide)
  have hb := ofNat_bitReplicate_widen (k := 1) b (by decide) (by decide)
  rw [color444, promote, packColor, hr, hg, hb]

/-- Color888 keeps the top bits of each channel (R224). -/
theorem color888_eq (r g b : BitVec 8) :
    color888 r g b = r.extractLsb' 3 5 ++ g.extractLsb' 2 6 ++ b.extractLsb' 3 5 := by
  rw [color888, promote, packColor, ofNat_bitReplicate_narrow r (by decide), ofNat_bitReplicate_narrow g (by decide),
    ofNat_bitReplicate_narrow b (by decide)]

/-- The three fields of the packed layout (R97, R220). -/
theorem fields_append (r : BitVec 5) (g : BitVec 6) (b : BitVec 5) :
    (r ++ g ++ b).extractLsb 15 11 = r ∧ (r ++ g ++ b).extractLsb 10 5 = g ∧ (r ++ g ++ b).extractLsb 4 0 = b := by
  have hred : (r ++ g ++ b).extractLsb 15 11 = (r ++ g).extractLsb' 6 5 :=
    BitVec.extractLsb'_append_eq_of_le (by decide)
  have hgreen : (r ++ g ++ b).extractLsb 10 5 = (r ++ g).extractLsb' 0 6 :=
    BitVec.extractLsb'_append_eq_of_le (by decide)
  exact ⟨hred.trans BitVec.extractLsb'_append_eq_left, hgreen.trans BitVec.extractLsb'_append_eq_right,
    BitVec.extractLsb'_append_eq_right⟩

/-- A part of a field of a word is a part of the word. -/
theorem extractLsb'_field {w : Nat} (x : BitVec w) (start len start' len' : Nat) (h : start' + len' ≤ len) :
    (x.extractLsb' start len).extractLsb' start' len' = x.extractLsb' (start + start') len' := by
  ext i hi
  simp [show start' + i < len by omega, Nat.add_assoc]

/-- CORE reads the top four bits of each field (R97, R220). -/
theorem channelValue_eq_field (c : Color) :
    channelValue c .red = (c.extractLsb 15 11).extractLsb' 1 4 ∧
      channelValue c .green = (c.extractLsb 10 5).extractLsb' 2 4 ∧
      channelValue c .blue = (c.extractLsb 4 0).extractLsb' 1 4 :=
  ⟨(extractLsb'_field c 11 5 1 4 (by decide)).symm, (extractLsb'_field c 5 6 2 4 (by decide)).symm,
    (extractLsb'_field c 0 5 1 4 (by decide)).symm⟩

/-- Settles O55: the fields of the packed layout; CORE reads of each the part before the appended bits. -/
theorem color444KeepsItsChannels : Obligations.Color444KeepsItsChannels := by
  intro r g b
  obtain ⟨hr, hg, hb⟩ := fields_append (r ++ r.extractLsb' 3 1) (g ++ g.extractLsb' 2 2) (b ++ b.extractLsb' 3 1)
  rw [← color444_eq] at hr hg hb
  obtain ⟨hred, hgreen, hblue⟩ := channelValue_eq_field (color444 r g b)
  rw [hr, BitVec.extractLsb'_append_eq_left] at hred
  rw [hg, BitVec.extractLsb'_append_eq_left] at hgreen
  rw [hb, BitVec.extractLsb'_append_eq_left] at hblue
  exact ⟨hr, hg, hb, hred, hgreen, hblue⟩

/-- At full saturation a channel stays as it is (R226). -/
theorem saturate_full (ch : Nat) : saturate 255 ch = ch := by
  have hnone : ((255 - ch) * (256 - (255 : BitVec 8).toNat)) >>> 8 = 0 := by
    rw [Nat.shiftRight_eq_div_pow]
    exact Nat.div_eq_of_lt (show (255 - ch) * 1 < 256 by omega)
  rw [saturate, hnone, Nat.add_zero]

/-- At full value a channel stays as it is (R226). -/
theorem scaleValue_full (ch : Nat) : scaleValue 255 ch = ch := by
  rw [scaleValue, Nat.shiftRight_eq_div_pow]
  exact Nat.mul_div_cancel ch (by decide)

/-- At full saturation and value ColorHSV packs the sextant's mix itself (R226). -/
theorem colorHSV_full {hue : Int} {r g b : Nat}
    (hmix : sextantMix ((hue % 1536).toNat >>> 8) ((hue % 1536).toNat % 256) = (r, g, b)) :
    colorHSV hue 255 255 false = color888 (BitVec.ofNat 8 r) (BitVec.ofNat 8 g) (BitVec.ofNat 8 b) := by
  simp only [colorHSV, hmix, saturate_full, scaleValue_full, Bool.false_eq_true, if_false]

/-- Settles O56: the fields of each colour; RLSPEC's three hues start the sextants of red, green and blue. -/
theorem colorCodecExamples : Obligations.ColorCodecExamples := by
  have hred : color888 255 0 0 = 0xF800 := (color888_eq ..).trans (by decide)
  have hgreen : color888 0 255 0 = 0x07E0 := (color888_eq ..).trans (by decide)
  have hblue : color888 0 0 255 = 0x001F := (color888_eq ..).trans (by decide)
  exact ⟨(color333_eq 7 0 0).trans (by decide), (color333_eq 0 7 0).trans (by decide),
    (color333_eq 0 0 7).trans (by decide), (color333_eq 5 2 6).trans (by decide),
    hred, (color888_eq ..).trans (by decide), (color888_eq ..).trans (by decide),
    (colorHSV_full rfl).trans hred, (colorHSV_full rfl).trans hgreen, (colorHSV_full rfl).trans hblue⟩

end Sys2Proof.Machine

/-! The statement of 60_exceptions.md about the tick timer (R252). -/

namespace Sys2Proof.Machine

/-- Once some steps have led to `t`, a longer run goes on from `t`. -/
theorem run_add {k : Nat} {s t : State} (h : core.run k s = .next t) (j : Nat) :
    core.run (k + j) s = core.run j t := by
  induction k generalizing s with
  | zero => cases h; rw [Nat.zero_add]
  | succ k ih =>
    cases hstep : step s with
    | next u =>
      rw [run_succ k hstep] at h
      rw [Nat.add_right_comm, run_succ (k + j) hstep, ih h]
    | fault _ | refused _ => simp [Host.Core.run, show core.step s = _ from hstep] at h

theorem run_one (s : State) : core.run 1 s = step s := by
  simp only [Host.Core.run, core]
  cases step s <;> rfl

/-- TICK, a refused or halted one included, does not depend on what the timer holds: neither its guard nor its six steps
read it. -/
theorem execTick_of_timerCnt (s : State) (c : Reg32) : execTick { s with timerCnt := c } = execTick s := by
  show whenEvent s (fun _ => _) = _
  rw [State.tick_of_timerCnt]
  rfl

/-- A time unit of the running timer that is not its last only counts down (R252). -/
theorem passTime_counts {s : State} (hrun : s.timerRunning = true) (hc : 1 < s.timerCnt.toNat) :
    passTime s = .next { s with timerCnt := s.timerCnt - 1 } := by
  rw [passTime, if_pos hrun, if_neg (Nat.not_le.2 hc)]

/-- The last time unit of the running timer is the TICK (R252). -/
theorem passTime_ticks {s : State} (hrun : s.timerRunning = true) (hc : s.timerCnt.toNat ≤ 1) :
    passTime s = execTick s := by
  rw [passTime, if_pos hrun, if_pos hc, execTick_of_timerCnt]

/-- Fewer time units than the running timer holds count it down and change nothing else of the machine. -/
theorem run_timeUnits {k : Nat} {s : State} {rest : List Move} (hrun : s.timerRunning = true)
    (hk : k < s.timerCnt.toNat) (hs : s.sched = List.replicate k .timeUnit ++ rest) :
    ∃ c b, core.run k s = .next { s with timerCnt := c, sched := rest, budget := b } ∧
      c.toNat + k = s.timerCnt.toNat := by
  induction k generalizing s with
  | zero => exact ⟨s.timerCnt, s.budget, by rw [show rest = s.sched from hs.symm]; rfl, rfl⟩
  | succ k ih =>
    have hc : 1 < s.timerCnt.toNat := by omega
    have hstep := (step_of_sched hs).trans (passTime_counts (s := { s with sched := _, budget := none }) hrun hc)
    have hcnt : (s.timerCnt - 1).toNat = s.timerCnt.toNat - 1 := BitVec.toNat_sub_of_le (BitVec.le_def.2 hc.le)
    obtain ⟨c, b, hgo, hsum⟩ := ih (s := { s with timerCnt := s.timerCnt - 1, sched := _, budget := none }) hrun
      (show k < (s.timerCnt - 1).toNat by omega) rfl
    refine ⟨c, b, (run_succ k hstep).trans hgo, ?_⟩
    change c.toNat + k = (s.timerCnt - 1).toNat at hsum
    omega

/-- As many time units as the running timer holds are the TICK. -/
theorem run_timeUnits_ticks {n : Nat} {s : State} {rest : List Move} (hrun : s.timerRunning = true)
    (hn : s.timerCnt.toNat = n + 1) (hs : s.sched = List.replicate (n + 1) .timeUnit ++ rest) :
    core.run (n + 1) s = execTick { s with sched := rest, budget := none } := by
  rw [List.replicate_succ', List.append_assoc] at hs
  obtain ⟨c, b, hgo, hsum⟩ := run_timeUnits hrun (by omega) hs
  have hlast : passTime { s with timerCnt := c, sched := rest, budget := none } =
      execTick { s with timerCnt := c, sched := rest, budget := none } := passTime_ticks hrun (show c.toNat ≤ 1 by omega)
  rw [run_add hgo 1, run_one, step_of_sched rfl]
  exact hlast.trans (execTick_of_timerCnt { s with sched := rest, budget := none } c)

/-- Settles O38: a run of time units counts the timer down by induction on its length, and the last one is the TICK. -/
theorem tickTimerFiresAfterItsPeriod : Obligations.TickTimerFiresAfterItsPeriod := by
  refine ⟨fun s t hbegin hstatus => ?_, fun s n k rest hrun hn hk hs => ?_,
    fun s n rest hrun hn hs => run_timeUnits_ticks hrun hn hs, fun s t htick => ?_⟩
  · obtain ⟨_, _, _, ⟨_, rfl⟩ | ⟨_, rfl⟩⟩ := execBegin_next hbegin
    · exact ⟨rfl, rfl⟩
    · exact absurd (show (0xFF : Byte) = 0x01 from hstatus) (by decide)
  · obtain ⟨c, b, hgo, hsum⟩ := run_timeUnits hrun (by omega) hs
    exact ⟨_, hgo, by show c.toNat = _; omega, rfl⟩
  · obtain ⟨_, _, rfl⟩ := execTick_next htick
    rw [State.tick_timerCnt, State.tick_tickPeriod]

end Sys2Proof.Machine

/-! The statements of 70_reset_and_hazards.md: the power-on state (R45, R270), that `STARTED` is for life (R271), and
that no second command starts while one is in progress (R287). -/

namespace Sys2Proof.Machine

/-! ### Power-on (R45, R270) -/

/-- A time unit of the stopped timer changes nothing (R252). -/
theorem passTime_stopped {s : State} (h : s.timerRunning = false) : passTime s = .next s := by
  rw [passTime, if_neg (Bool.eq_false_iff.1 h)]

/-- Until BEGIN has succeeded every other operation is refused: under a legal configuration by R124, under an illegal
one by R5. -/
theorem exec_refused_before_start {s : State} (hs : s.started = false) {i : Instr} (hi : i ≠ .beginOp) :
    ∃ r, exec i s = .refused r := by
  cases hl : s.cfg.legal with
  | false => exact ⟨_, exec_illegal hl i⟩
  | true => exact ⟨_, (nothingRunsBeforeBegin s hl hs).1 i hi⟩

/-- Settles O11: at power-on the block is not started, its timer is stopped, and BEGIN has not run. -/
theorem powerOnAcceptsOnlyBegin : Obligations.PowerOnAcceptsOnlyBegin := by
  refine fun c => ⟨?_, fun i hi => exec_refused_before_start rfl hi, passTime_stopped rfl, fun hl => ?_⟩
  · exact ⟨rfl, rfl, rfl, rfl, rfl, rfl, rfl, rfl, rfl, rfl, rfl, rfl, rfl, rfl, rfl, rfl, rfl⟩
  · exact ⟨_, execBegin_first hl rfl rfl⟩

/-! ### STARTED (R271) -/

/-- An effect that changes `STARTED` is a successful BEGIN, which sets it. -/
theorem Effect.started {s t : State} (he : Effect s t) : t.started = s.started ∨ t = installStart s := by
  cases he with
  | began => exact .inr rfl
  | drew _ _ _ hgo | resumed _ hgo =>
    obtain ⟨_, _, _, rfl⟩ := goOn_next hgo
    exact .inl rfl
  | askedSwap => exact .inl s.requestSwap_started
  | ticked => exact .inl s.tick_started
  | idle | beginFailed | askedResync | sent | completed | counted => exact .inl rfl

/-- Settles O17: the step is one of the effects, and the only one that writes `STARTED` sets it. -/
theorem startedIsForLife : Obligations.StartedIsForLife := by
  intro s t hstep hs
  obtain ⟨_, _, he⟩ := step_effect hstep
  obtain hkept | rfl := he.started
  · exact hkept.trans hs
  · rfl

/-! ### A second command (R287) -/

/-- While a command is in progress the guard of the commands refuses (R287). -/
theorem whenCommand_inProgress {s : State} (k : State → Result) (hl : s.cfg.legal = true) (hs : s.started = true)
    (ht : s.todo ≠ []) : whenCommand s k = .refused .commandInProgress := by
  rw [whenCommand, whenStarted_ready _ hl hs, if_pos ht]

/-- BEGIN too is refused while a command is in progress, before it checks whether it has run (R287). -/
theorem execBegin_inProgress {s : State} (hl : s.cfg.legal = true) (ht : s.todo ≠ []) :
    execBegin s = .refused .commandInProgress := by
  rw [execBegin, if_neg (by simp [hl]), if_pos ht]

/-- Settles O16: BEGIN checks for a command in progress itself, the other commands in `whenCommand`. -/
theorem secondCommandIsRefused : Obligations.SecondCommandIsRefused := by
  intro s i hl hs ht hd
  cases i with
  | beginOp => exact execBegin_inProgress hl ht
  | setPixel | fill | reqSwap | reqResync =>
    simp only [exec, execSetPixel, execFill, execReqSwap, execReqResync, whenCommand_inProgress _ hl hs ht]
  | tick | xferByte | xferDone => cases hd

end Sys2Proof.Machine
